-- ==== Sys2Proof/Word.lean ====
section
/-! DEFINITION. The bit patterns of the FG-DDS block: the widths that 00_scope.md R8, R9 and
30_encoding.md R80 give. Bit 0 is the least significant bit everywhere (R13). -/

namespace Sys2Proof

/-- A 32-bit register or operand (R8, R9). -/
abbrev Word := BitVec 32

/-- A 16-bit sample, or a 16-bit table entry (R9, R10). -/
abbrev Sample := BitVec 16

/-- One command: 68 bits, `{op, arg1, arg0}` (R80, R81). -/
abbrev CommandWord := BitVec 68

end Sys2Proof
end

