-- ==== Sys2Proof/Config.lean ====
section
/-! DEFINITION. What is fixed for a run and lies outside the block's state (10_state.md R34): the wave
tables (00_scope.md R10, D33), the map from handle to user function (R11, D34) and the number of
instances (R12, D25). Each is a constant with no body: no proof can see a value of it (log entries 3, 4, 9). -/

namespace Sys2Proof.Config

/-- The four waveform kinds that have a wave table (R10: `Kind4`). The user-defined kind has none (R51). -/
inductive Kind4 where
  | sine | square | triangle | sawtooth
  deriving DecidableEq, Repr

/-- `TABLE_8_256` (R10): one period of each kind, 256 entries of 8 bits. DESIGN CHOICE (log 3): a parameter. -/
opaque table8_256 : Kind4 → Fin 256 → BitVec 8

/-- `TABLE_8_1024` (R10): one period of each kind, 1024 entries of 8 bits. -/
opaque table8_1024 : Kind4 → Fin 1024 → BitVec 8

/-- `TABLE_16_1024` (R10): one period of each kind, 1024 entries of 16 bits. -/
opaque table16_1024 : Kind4 → Fin 1024 → BitVec 16

/-- `USER_FN` (R11): the pure function behind each handle, from a 32-bit phase to a 16-bit value.
DESIGN CHOICE (log 4): a parameter. -/
opaque userFunction : (handle : Word) → (phase : Word) → Sample

/-- How many instances the platform has beyond the first (R12: `N_INSTANCES >= 1`, log 9). -/
opaque extraInstances : Nat

/-- `N_INSTANCES` (D25). -/
def nInstances : Nat := extraInstances + 1

/-- The two external collaborators of the block, together (60_exceptions.md R211): what a
`NEXT_SAMPLE` can look at beyond the state. The operations take it as an argument, so that they can
be run on fixture tables; the machine runs them on `Config.env`. -/
structure Env where
  table8_256   : Kind4 → Fin 256 → BitVec 8
  table8_1024  : Kind4 → Fin 1024 → BitVec 8
  table16_1024 : Kind4 → Fin 1024 → BitVec 16
  userFunction : Word → Word → Sample

/-- The environment of this machine: its parameters. -/
def env : Env where
  table8_256   := table8_256
  table8_1024  := table8_1024
  table16_1024 := table16_1024
  userFunction := userFunction

end Sys2Proof.Config
end

