-- ==== Sys2Proof/Machine/State.lean ====
section
/-! DEFINITION. The state of the block: the registers of 10_state.md, the output strobe of
70_reset_and_hazards.md R234, and what the host will put on the command port. Plain data. -/

namespace Sys2Proof.Machine

/-- The waveform kinds (R24). The register is 3 bits wide and never holds 5 to 7 (R33, log 6). -/
inductive Waveform where
  | sine | square | triangle | sawtooth | user
  deriving DecidableEq, Repr

/-- The resolution classes (R25). The register is 2 bits wide and never holds 3 (R33, log 6). -/
inductive Resolution where
  | c8_256 | c8_1024 | c16_1024
  deriving DecidableEq, Repr

/-- The interpolation modes (R26). The register is 2 bits wide and never holds 3 (R33, log 6). -/
inductive InterpMode where
  | off | linear | quadratic
  deriving DecidableEq, Repr

/-- The causes that `raise Fault(code)` records in `err` (60_exceptions.md R200). -/
inductive FaultCode where
  /-- bit 0: `SET_FREQ` or `SET_NOTE` with sample rate 0. -/
  | div0
  /-- bit 1: a command with a reserved opcode. -/
  | illegal
  deriving DecidableEq, Repr

/-- What the host drives at one rising edge of `clk` (R234): `rst`, `cmd_valid` and `cmd`. -/
structure EdgeInput where
  rst      : Bool
  cmdValid : Bool
  cmd      : CommandWord
  deriving DecidableEq, Repr

/-- The state. The first nine fields are the state record of R35; nothing else is architectural (R34).
No memory, no program counter and no general registers exist (R20, R21, R57, log 8). -/
structure State where
  /-- R22, 32 bits: the position in the waveform's period. -/
  phaseAcc    : Word
  /-- R23, 32 bits: what each sample tick adds to the phase. -/
  phaseInc    : Word
  /-- R27, 8 bits: the scale factor. -/
  amplitude   : BitVec 8
  /-- R24: the waveform kind. -/
  waveform    : Waveform
  /-- R25: the resolution class. -/
  resolution  : Resolution
  /-- R26: the interpolation mode. -/
  interp      : InterpMode
  /-- R28, 32 bits: the handle of the user function, 0 for none. -/
  userFn      : Word
  /-- R29, 2 bits: the sticky fault flags, DIV0 in bit 0 and ILLEGAL in bit 1. -/
  err         : BitVec 2
  /-- R31, 16 bits: the sample of the most recent `NEXT_SAMPLE`. -/
  sampleOut   : Sample
  /-- R234, R236: 1 in the cycle after a `NEXT_SAMPLE` was accepted. Port protocol (R34, log 15). -/
  sampleValid : Bool
  /-- The MODEL'S OWN field: what the host drives at the coming edges, the next one first; after the
  last of them it drives nothing. Host state, not block state (R21, log 1). -/
  port        : List EdgeInput
  deriving DecidableEq, Repr

/-- Why a run of the machine stops with a fault: NOTHING stops it. The spec has no terminal state
(R240), `raise Fault(code)` records a bit in `err` and the block keeps executing commands (R200, R201),
so this type has no constructor (log 5). -/
inductive Fault where
  deriving DecidableEq, Repr

/-- Why an instruction has no meaning. -/
inductive Refusal where
  /-- Raised only by an arm of `exec` for a command that has no meaning yet; no arm does. Safe. -/
  | notModelled (mnemonic : String)
  deriving DecidableEq, Repr

/-- The machine right after reset: the reset column of R35, with `sample_valid` 0 (R230) and nothing
yet on the command port (R231: after reset it waits for the first command). The reset values are the
spec's own (log 2), and no run starts before the first reset (R232, log 10). -/
def State.reset : State where
  phaseAcc    := 0
  phaseInc    := 0
  amplitude   := 255
  waveform    := .sine
  resolution  := .c8_256
  interp      := .off
  userFn      := 0
  err         := 0
  sampleOut   := 0
  sampleValid := false
  port        := []

end Sys2Proof.Machine
end

