-- ==== Sys2Proof/Machine/Operands.lean ====
section
/-! DEFINITION. Selector operands (30_encoding.md R86) and the binary values of the enumerated
registers (10_state.md R24 to R26). The other operand forms are assembled at decode (R83, Decode.lean). -/

namespace Sys2Proof.Machine

/-- `sel <= 4` names a kind; every other 32-bit value names none (R86, R105). -/
def waveformOfSel (sel : Word) : Option Waveform :=
  match sel.toNat with
  | 0 => some .sine
  | 1 => some .square
  | 2 => some .triangle
  | 3 => some .sawtooth
  | 4 => some .user
  | _ => none

/-- `sel <= 2` names a class (R86, R106). -/
def resolutionOfSel (sel : Word) : Option Resolution :=
  match sel.toNat with
  | 0 => some .c8_256
  | 1 => some .c8_1024
  | 2 => some .c16_1024
  | _ => none

/-- `sel <= 2` names a mode (R86, R107). -/
def interpOfSel (sel : Word) : Option InterpMode :=
  match sel.toNat with
  | 0 => some .off
  | 1 => some .linear
  | 2 => some .quadratic
  | _ => none

/-- The value that the 3-bit register `waveform` holds (R24). -/
def waveformBits : Waveform → BitVec 3
  | .sine => 0
  | .square => 1
  | .triangle => 2
  | .sawtooth => 3
  | .user => 4

/-- The value that the 2-bit register `resolution` holds (R25). -/
def resolutionBits : Resolution → BitVec 2
  | .c8_256 => 0
  | .c8_1024 => 1
  | .c16_1024 => 2

/-- The value that the 2-bit register `interp` holds (R26). -/
def interpBits : InterpMode → BitVec 2
  | .off => 0
  | .linear => 1
  | .quadratic => 2

/-- The kind whose table a waveform reads; the user kind matches no table (R51, R152). -/
def tableKind : Waveform → Option Config.Kind4
  | .sine => some .sine
  | .square => some .square
  | .triangle => some .triangle
  | .sawtooth => some .sawtooth
  | .user => none

/-- The 2-bit value of a kind on `tbl_kind`, 0 to 3 (R234). -/
def kindBits : Config.Kind4 → BitVec 2
  | .sine => 0
  | .square => 1
  | .triangle => 2
  | .sawtooth => 3

end Sys2Proof.Machine
end

