-- ==== Sys2Proof/Machine/Flags.lean ====
section
/-! DEFINITION. The flags: `err` is the only flag register, and arithmetic sets no flag (10_state.md
R29, R30). -/

namespace Sys2Proof.Machine

/-- The bit of `err` that a fault code has (R29, R200). -/
def faultBit : FaultCode → BitVec 2
  | .div0 => 0b01
  | .illegal => 0b10

/-- `err` with the bit of `code` set; the other bit is kept (R200: the bits are sticky). -/
def errWith (code : FaultCode) (err : BitVec 2) : BitVec 2 := err ||| faultBit code

end Sys2Proof.Machine
end

