-- ==== Sys2Proof/Machine/Prims.lean ====
section
/-! DEFINITION. The integer operators of 00_scope.md R14. All arithmetic on samples is on unbounded
integers (41_sample_production.md, opening). Outside the domains the rules state, the operators are total
and never asked (log 14). -/

namespace Sys2Proof.Machine

/-- `floor_div(a, n)` for `n > 0`: rounds towards minus infinity (R14). -/
def floorDiv (a n : Int) : Int := a / n

/-- `a >> k` for an integer, signed or not: `floor_div(a, 2^k)` (R14, D15). -/
def shiftRight (a : Int) (k : Nat) : Int := floorDiv a (2 ^ k)

/-- `clamp(v, lo, hi)` (R14). -/
def clampInt (v lo hi : Int) : Int := if v < lo then lo else if hi < v then hi else v

/-- `round_half_up(n, d)` for `d > 0`: the nearest integer to `n / d`, ties going up (R14). -/
def roundHalfUp (n d : Nat) : Nat := (2 * n + d) / (2 * d)

end Sys2Proof.Machine
end

