-- ==== Sys2Proof/Machine/Ops.lean ====
section
/-! DEFINITION. The named operations on the state: one write per register, and the primitives of
00_scope.md R16 that change state. The block has no writable memory (20_memory.md R57), so none is
here. -/

namespace Sys2Proof.Machine

/-! ### Register writes (R15: `register <- v`) -/

def State.setPhaseAcc (s : State) (v : Word) : State := { s with phaseAcc := v }
def State.setPhaseInc (s : State) (v : Word) : State := { s with phaseInc := v }
def State.setAmplitude (s : State) (v : BitVec 8) : State := { s with amplitude := v }
def State.setWaveform (s : State) (v : Waveform) : State := { s with waveform := v }
def State.setResolution (s : State) (v : Resolution) : State := { s with resolution := v }
def State.setInterp (s : State) (v : InterpMode) : State := { s with interp := v }
def State.setUserFn (s : State) (v : Word) : State := { s with userFn := v }
def State.setErr (s : State) (v : BitVec 2) : State := { s with err := v }
def State.setSampleOut (s : State) (v : Sample) : State := { s with sampleOut := v }
def State.setSampleValid (s : State) (v : Bool) : State := { s with sampleValid := v }
def State.setPort (s : State) (v : List EdgeInput) : State := { s with port := v }

/-! ### The primitives of R16 -/

/-- `raise Fault(code)`: sets the bit of `code` in `err`, and nothing else changes (R16, R200). This is
all that taking an exception is on this block: no control transfer, no saved state, no mode (R206), and
no return (R207). -/
def raiseFault (code : FaultCode) (s : State) : State := s.setErr (errWith code s.err)

/-- `emit(v)`: makes `v` the output sample of the current command (R16, R31) and raises the strobe
`sample_valid` for the cycle after the edge (R236). -/
def emit (v : Int) (s : State) : State := (s.setSampleOut (BitVec.ofInt 16 v)).setSampleValid true

/-- `reject`: ends the command with no change to any state (R16, R202). -/
def reject (s : State) : State := s

/-! ### Writes that several commands and the reset input share -/

/-- The seven writes of the source's `initialize` (R100): done by `INIT` and by the reset input (R230). -/
def initRegisters (s : State) : State :=
  ((((((s.setPhaseAcc 0).setPhaseInc 0).setAmplitude 255).setWaveform .sine).setResolution .c8_256).setInterp
    .off).setUserFn 0

/-- `phase_inc <- round_half_up(num, den) mod 2^32`, or DIV0 and no write when the sample rate is 0,
which is checked before any arithmetic (R101, R102, R204). -/
def loadIncrement (rate : Word) (num den : Nat) (s : State) : State :=
  if rate = 0 then raiseFault .div0 s else s.setPhaseInc (BitVec.ofNat 32 (roundHalfUp num den))

end Sys2Proof.Machine
end

