-- ==== Sys2Proof/Machine/Configure.lean ====
section
/-! DEFINITION. The twelve configuration commands, in the order of 40_configuration.md. None of them
emits a sample, reads a wave table or calls the user function. -/

namespace Sys2Proof.Machine

open Host (Outcome)

/-- `INIT` (R100): `err` and `sample_out` are not written. -/
def execInit (s : State) : Outcome State Fault Refusal := .next (initRegisters s)

/-- `SET_FREQ freq_q16, rate` (R101): `freq_Hz * 2^32 / rate` with `freq_Hz = freq_q16 / 2^16`. -/
def execSetFreq (freqQ16 rate : Word) (s : State) : Outcome State Fault Refusal :=
  .next (loadIncrement rate (freqQ16.toNat * 2 ^ 16) rate.toNat s)

/-- `SET_NOTE note, rate` (R102): `(note / 100) * 2^32 / rate`, with no intermediate rounding. -/
def execSetNote (note rate : Word) (s : State) : Outcome State Fault Refusal :=
  .next (loadIncrement rate (note.toNat * 2 ^ 32) (100 * rate.toNat) s)

/-- `SET_AMP_RAW value` (R103). -/
def execSetAmpRaw (value : BitVec 8) (s : State) : Outcome State Fault Refusal := .next (s.setAmplitude value)

/-- The amplitude that a percentage stands for (R104): clamped to [0, 100], then `round(p * 2.55)` exactly, ties up. -/
def amplitudeOfPercent (percent : Int) : BitVec 8 :=
  BitVec.ofNat 8 (roundHalfUp (255 * (clampInt percent 0 100).toNat) 100)

/-- `SET_AMP_PCT percent` (R104). -/
def execSetAmpPct (percent : Int) (s : State) : Outcome State Fault Refusal :=
  .next (s.setAmplitude (amplitudeOfPercent percent))

/-- `SET_WAVE sel` (R105): never writes `user_fn`. -/
def execSetWave (sel : Word) (s : State) : Outcome State Fault Refusal :=
  match waveformOfSel sel with
  | some w => .next (s.setWaveform w)
  | none => .next (reject s)

/-- `SET_RES sel` (R106): an accepted selector clears the phase, even when the class does not change. -/
def execSetRes (sel : Word) (s : State) : Outcome State Fault Refusal :=
  match resolutionOfSel sel with
  | some r => .next ((s.setResolution r).setPhaseAcc 0)
  | none => .next (reject s)

/-- `SET_INTERP sel` (R107). -/
def execSetInterp (sel : Word) (s : State) : Outcome State Fault Refusal :=
  match interpOfSel sel with
  | some m => .next (s.setInterp m)
  | none => .next (reject s)

/-- `SET_USER_WAVE handle` (R108): handle 0 stores "no function" and still selects USER. -/
def execSetUserWave (handle : Word) (s : State) : Outcome State Fault Refusal :=
  .next ((s.setUserFn handle).setWaveform .user)

/-- `CLEAR_USER_WAVE` (R109). -/
def execClearUserWave (s : State) : Outcome State Fault Refusal := .next ((s.setUserFn 0).setWaveform .sine)

/-- `SET_USER_INC inc` (R110). -/
def execSetUserInc (inc : Word) (s : State) : Outcome State Fault Refusal := .next (s.setPhaseInc inc)

/-- `SILENCE` (R111). -/
def execSilence (s : State) : Outcome State Fault Refusal := .next ((s.setPhaseAcc 0).setPhaseInc 0)

end Sys2Proof.Machine
end

