-- ==== Sys2Proof/Machine/Reserved.lean ====
section
/-! DEFINITION. The three reserved opcodes (30_encoding.md R90): each only records ILLEGAL. -/

namespace Sys2Proof.Machine

open Host (Outcome)

/-- op 0xD (R90). -/
def execReservedD (s : State) : Outcome State Fault Refusal := .next (raiseFault .illegal s)

/-- op 0xE (R90). -/
def execReservedE (s : State) : Outcome State Fault Refusal := .next (raiseFault .illegal s)

/-- op 0xF (R90). -/
def execReservedF (s : State) : Outcome State Fault Refusal := .next (raiseFault .illegal s)

end Sys2Proof.Machine
end

