-- ==== Sys2Proof/Machine/Sample.lean ====
section
/-! DEFINITION. Sample production: the two external reads (20_memory.md R50, R55) and `NEXT_SAMPLE`
with the function `Sample(acc)` it calls (41_sample_production.md R150 to R163). -/

namespace Sys2Proof.Machine

open Host (Outcome)
open Config (Kind4 Env)

/-! ### The external reads -/

/-- `TableRead(cls, kind, i)` (R50): entry `i`, an unsigned integer. Every index the block forms is in
range (R51), so the reduction of `i` to the table's length changes none. -/
def tableRead (env : Env) (cls : Resolution) (kind : Kind4) (i : Nat) : Nat :=
  match cls with
  | .c8_256 => (env.table8_256 kind (Fin.ofNat 256 i)).toNat
  | .c8_1024 => (env.table8_1024 kind (Fin.ofNat 1024 i)).toNat
  | .c16_1024 => (env.table16_1024 kind (Fin.ofNat 1024 i)).toNat

/-- `UserCall(h, phase)` (R55): the 16-bit result, zero-extended. -/
def userCall (env : Env) (handle phase : Word) : Nat := (env.userFunction handle phase).toNat

/-! ### Index and fraction -/

/-- `acc[31:24]` (R153). -/
def index256 (acc : Word) : Nat := (acc.extractLsb' 24 8).toNat

/-- `acc[31:22]` (R156). -/
def index1024 (acc : Word) : Nat := (acc.extractLsb' 22 10).toNat

/-- `acc[21:12]` (R156). -/
def fraction (acc : Word) : Nat := (acc.extractLsb' 12 10).toNat

/-! ### Interpolation and scaling -/

/-- `T(j)`: entry `j mod 1024` of the table in use (R155). -/
def entry1024 (env : Env) (cls : Resolution) (kind : Kind4) (j : Nat) : Nat := tableRead env cls kind (j % 1024)

/-- `MAX` of a class: the largest entry of its bit depth (R155). -/
def maxEntry : Resolution → Int
  | .c8_256 => 255
  | .c8_1024 => 255
  | .c16_1024 => 65535

/-- `Lin` of two neighbouring entries at fraction `f` (R159). No clamp. -/
def linear (a b f : Int) : Int := a + shiftRight ((b - a) * f) 10

/-- `y` of R160, before the clamp. -/
def quadraticRaw (p0 p1 p2 f : Int) : Int :=
  p1 + shiftRight ((p2 - p0) * f) 11 + shiftRight ((p0 - 2 * p1 + p2) * shiftRight (f * f) 10) 11

/-- `Quad` of three neighbouring entries at fraction `f`, clamped to `[0, max]` (R160). -/
def quadratic (max p0 p1 p2 f : Int) : Int := clampInt (quadraticRaw p0 p1 p2 f) 0 max

/-- `Scale(v)` (R163). -/
def scale (amplitude : BitVec 8) (v : Int) : Int := shiftRight (v * amplitude.toNat) 8

/-- The mode dispatch of the 1024-sample classes (R157 to R160), on the entries `T`. -/
def interpolate (mode : InterpMode) (max : Int) (T : Nat → Nat) (i f : Nat) : Int :=
  match mode with
  | .off => T i
  | .linear => linear (T i) (T (i + 1)) f
  | .quadratic => quadratic max (T i) (T (i + 1)) (T (i + 2)) f

/-- The value a class gives for a table kind, before scaling: the 256-sample lookup (R154), which never
interpolates, or the 1024-sample path (R155 to R160). -/
def classValue (env : Env) (cls : Resolution) (mode : InterpMode) (kind : Kind4) (acc : Word) : Int :=
  match cls with
  | .c8_256 => tableRead env .c8_256 kind (index256 acc)
  | .c8_1024 =>
    interpolate mode (maxEntry .c8_1024) (entry1024 env .c8_1024 kind) (index1024 acc) (fraction acc)
  | .c16_1024 =>
    interpolate mode (maxEntry .c16_1024) (entry1024 env .c16_1024 kind) (index1024 acc) (fraction acc)

/-- `Sample(acc)` (R151 to R163): the user path first; then the class dispatch, where the user kind with
no function matches no table and yields 0, unscaled (R152). -/
def sample (env : Env) (s : State) (acc : Word) : Int :=
  if s.waveform = .user ∧ s.userFn ≠ 0 then scale s.amplitude (userCall env s.userFn acc)
  else
    match tableKind s.waveform with
    | none => 0
    | some kind => scale s.amplitude (classValue env s.resolution s.interp kind acc)

/-! ### The command -/

/-- The effect of `NEXT_SAMPLE` in an environment (R150): the phase advances modulo 2^32, and the
sample is that of the NEW phase. -/
def nextSampleIn (env : Env) (s : State) : State :=
  emit (sample env s (s.phaseAcc + s.phaseInc)) (s.setPhaseAcc (s.phaseAcc + s.phaseInc))

/-- `NEXT_SAMPLE` (R150), reading this machine's tables and user functions. -/
def execNextSample (s : State) : Outcome State Fault Refusal := .next (nextSampleIn Config.env s)

end Sys2Proof.Machine
end

