-- ==== Sys2Proof/Syntax.lean ====
section
/-! DEFINITION. The commands of the block: one constructor per row of the opcode table
(30_encoding.md R84), its operands as R83 assembles them. -/

namespace Sys2Proof

/-- A command, decoded. Selectors stay whole 32-bit values: an out-of-range one is a legal command
that is rejected when it runs (R85, R86), not an illegal encoding. -/
inductive Instr where
  /-- op 0x0, format N (R100). -/
  | init
  /-- op 0x1, format AB (R101): the frequency in unsigned Q16.16 Hz, the sample rate in Hz. -/
  | setFreq (freqQ16 rate : Word)
  /-- op 0x2, format AB (R102): the frequency in hundredths of a Hz, the sample rate in Hz. -/
  | setNote (note rate : Word)
  /-- op 0x3, format A (R103): `arg0[7:0]`. -/
  | setAmpRaw (value : BitVec 8)
  /-- op 0x4, format A (R104): `as_signed32(arg0)`, an integer (log 16). -/
  | setAmpPct (percent : Int)
  /-- op 0x5, format A (R105). -/
  | setWave (sel : Word)
  /-- op 0x6, format A (R106). -/
  | setRes (sel : Word)
  /-- op 0x7, format A (R107). -/
  | setInterp (sel : Word)
  /-- op 0x8, format A (R108): a handle, 0 for none. -/
  | setUserWave (handle : Word)
  /-- op 0x9, format N (R109). -/
  | clearUserWave
  /-- op 0xA, format A (R110). -/
  | setUserInc (inc : Word)
  /-- op 0xB, format N (R111). -/
  | silence
  /-- op 0xC, format N (R150). -/
  | nextSample
  /-- op 0xD, reserved (R90). -/
  | reservedD
  /-- op 0xE, reserved (R90). -/
  | reservedE
  /-- op 0xF, reserved (R90). -/
  | reservedF
  deriving DecidableEq, Repr

end Sys2Proof
end

