-- ==== Sys2Proof/Machine/Dispatch.lean ====
section
/-! DEFINITION. The dispatch: one arm per command, one direct call of its meaning. -/

namespace Sys2Proof.Machine

def exec (i : Instr) (s : State) : Host.Outcome State Fault Refusal :=
  match i with
  | .init => Sys2Proof.Machine.execInit s
  | .setFreq freqQ16 rate => Sys2Proof.Machine.execSetFreq freqQ16 rate s
  | .setNote note rate => Sys2Proof.Machine.execSetNote note rate s
  | .setAmpRaw value => Sys2Proof.Machine.execSetAmpRaw value s
  | .setAmpPct percent => Sys2Proof.Machine.execSetAmpPct percent s
  | .setWave sel => Sys2Proof.Machine.execSetWave sel s
  | .setRes sel => Sys2Proof.Machine.execSetRes sel s
  | .setInterp sel => Sys2Proof.Machine.execSetInterp sel s
  | .setUserWave handle => Sys2Proof.Machine.execSetUserWave handle s
  | .clearUserWave => Sys2Proof.Machine.execClearUserWave s
  | .setUserInc inc => Sys2Proof.Machine.execSetUserInc inc s
  | .silence => Sys2Proof.Machine.execSilence s
  | .nextSample => Sys2Proof.Machine.execNextSample s
  | .reservedD => Sys2Proof.Machine.execReservedD s
  | .reservedE => Sys2Proof.Machine.execReservedE s
  | .reservedF => Sys2Proof.Machine.execReservedF s

end Sys2Proof.Machine
end

