-- ==== Sys2Proof/WellFormed.lean ====
section
/-! DEFINITION. Which terms of `Instr` stand for a command word. Every operand is a bit field of its
own width and every value of it is legal (30_encoding.md R85, R91); the one operand that is an integer,
`percent`, must be one that 32 bits in two's complement can hold (R9, R83). -/

namespace Sys2Proof

/-- `i` is the reading of some command word. -/
def Instr.wellFormed : Instr → Bool
  | .setAmpPct percent => decide (-2 ^ 31 ≤ percent) && decide (percent < 2 ^ 31)
  | .init => true
  | .setFreq _ _ => true
  | .setNote _ _ => true
  | .setAmpRaw _ => true
  | .setWave _ => true
  | .setRes _ => true
  | .setInterp _ => true
  | .setUserWave _ => true
  | .clearUserWave => true
  | .setUserInc _ => true
  | .silence => true
  | .nextSample => true
  | .reservedD => true
  | .reservedE => true
  | .reservedF => true

end Sys2Proof
end

