-- ==== Sys2Proof/Decode.lean ====
section
/-! DEFINITION. From a command word to a command and back (30_encoding.md R80 to R86, R90, R91).
Every 68-bit word decodes: there is no other length and no illegal encoding (R80, R91), a reserved
opcode being a command of its own. What is refused, by name, is a bit pattern that is no 68-bit word. -/

namespace Sys2Proof

/-! ### The fields of the word (R81) -/

/-- `op = cmd[67:64]`. -/
def opField (w : CommandWord) : BitVec 4 := w.extractLsb' 64 4

/-- `arg1 = cmd[63:32]`. -/
def arg1Field (w : CommandWord) : Word := w.extractLsb' 32 32

/-- `arg0 = cmd[31:0]`. -/
def arg0Field (w : CommandWord) : Word := w.extractLsb' 0 32

/-- `cmd = {op, arg1, arg0}` (R81). -/
def mkWord (op : BitVec 4) (arg1 arg0 : Word) : CommandWord := op ++ arg1 ++ arg0

/-! ### Operand assembly (R83) -/

/-- `as_signed32` (R13): the two's-complement reading of 32 bits. -/
def asSigned32 (w : Word) : Int := w.toInt

/-- The 32-bit pattern of an integer in two's complement. -/
def ofSigned32 (v : Int) : Word := BitVec.ofInt 32 v

/-- The operand of `SET_AMP_RAW`: `arg0[7:0]`; `arg0[31:8]` is ignored (R83, R103). -/
def rawAmpField (arg0 : Word) : BitVec 8 := arg0.extractLsb' 0 8

/-! ### Decoding -/

/-- The command that a word spells, selected by `op` alone (R84). -/
def decode (w : CommandWord) : Instr :=
  match (opField w).toNat with
  | 0x0 => .init
  | 0x1 => .setFreq (arg0Field w) (arg1Field w)
  | 0x2 => .setNote (arg0Field w) (arg1Field w)
  | 0x3 => .setAmpRaw (rawAmpField (arg0Field w))
  | 0x4 => .setAmpPct (asSigned32 (arg0Field w))
  | 0x5 => .setWave (arg0Field w)
  | 0x6 => .setRes (arg0Field w)
  | 0x7 => .setInterp (arg0Field w)
  | 0x8 => .setUserWave (arg0Field w)
  | 0x9 => .clearUserWave
  | 0xA => .setUserInc (arg0Field w)
  | 0xB => .silence
  | 0xC => .nextSample
  | 0xD => .reservedD
  | 0xE => .reservedE
  | _   => .reservedF

/-- Why a bit pattern is no command word. -/
inductive DecodeError where
  /-- A bit above bit 67 is set: no command is longer than 68 bits (R80). -/
  | longerThan68Bits
  deriving DecidableEq, Repr

/-- The command word in the low `nbits` bits of `w`, numbered as the opcode table numbers them. -/
def commandWordOfBits (nbits w : Nat) : Except DecodeError CommandWord :=
  if w % 2 ^ nbits < 2 ^ 68 then .ok (BitVec.ofNat 68 (w % 2 ^ nbits)) else .error .longerThan68Bits

/-- The command in the low `nbits` bits of `w`, or why there is none. -/
def decodeBits (nbits w : Nat) : Except DecodeError Instr :=
  match commandWordOfBits nbits w with
  | .ok cmd => .ok (decode cmd)
  | .error e => .error e

/-- The host's question about a row of the opcode table (log 7). -/
def decodeTableWord (nbits w : Nat) : Option Instr :=
  match decodeBits nbits w with
  | .ok i => some i
  | .error _ => none

/-! ### Encoding (R81 to R84). The encoder writes 0 into every ignored bit, as the assembler of R87 does. -/

/-- The opcode of a command (R84). -/
def opcodeOf : Instr → BitVec 4
  | .init => 0x0
  | .setFreq _ _ => 0x1
  | .setNote _ _ => 0x2
  | .setAmpRaw _ => 0x3
  | .setAmpPct _ => 0x4
  | .setWave _ => 0x5
  | .setRes _ => 0x6
  | .setInterp _ => 0x7
  | .setUserWave _ => 0x8
  | .clearUserWave => 0x9
  | .setUserInc _ => 0xA
  | .silence => 0xB
  | .nextSample => 0xC
  | .reservedD => 0xD
  | .reservedE => 0xE
  | .reservedF => 0xF

/-- The word of a command, its ignored bits 0. -/
def encode (i : Instr) : CommandWord :=
  match i with
  | .init => mkWord (opcodeOf i) 0 0
  | .setFreq freqQ16 rate => mkWord (opcodeOf i) rate freqQ16
  | .setNote note rate => mkWord (opcodeOf i) rate note
  | .setAmpRaw value => mkWord (opcodeOf i) 0 (value.setWidth 32)
  | .setAmpPct percent => mkWord (opcodeOf i) 0 (ofSigned32 percent)
  | .setWave sel => mkWord (opcodeOf i) 0 sel
  | .setRes sel => mkWord (opcodeOf i) 0 sel
  | .setInterp sel => mkWord (opcodeOf i) 0 sel
  | .setUserWave handle => mkWord (opcodeOf i) 0 handle
  | .clearUserWave => mkWord (opcodeOf i) 0 0
  | .setUserInc inc => mkWord (opcodeOf i) 0 inc
  | .silence => mkWord (opcodeOf i) 0 0
  | .nextSample => mkWord (opcodeOf i) 0 0
  | .reservedD => mkWord (opcodeOf i) 0 0
  | .reservedE => mkWord (opcodeOf i) 0 0
  | .reservedF => mkWord (opcodeOf i) 0 0

/-- The bits of a word that some rule of R83 names as operand bits, or that hold the opcode; the
others are ignored (R85). -/
def usedBits (op : BitVec 4) : CommandWord :=
  match op.toNat with
  | 0x1 | 0x2 => mkWord 0xF 0xFFFFFFFF 0xFFFFFFFF
  | 0x3 => mkWord 0xF 0 0xFF
  | 0x4 | 0x5 | 0x6 | 0x7 | 0x8 | 0xA => mkWord 0xF 0 0xFFFFFFFF
  | _ => mkWord 0xF 0 0

end Sys2Proof
end

