-- ==== Sys2Proof/Machine/Ports.lean ====
section
/-! DEFINITION. The ports at command level and at the clock edge (70_reset_and_hazards.md R230, R234 to
R236): what the edge asks of the block, what every edge does, the reset input, the status outputs, and
what the block asks of the two external collaborators in a cycle. -/

namespace Sys2Proof.Machine

open Config (Kind4 Env)

/-! ### Inputs -/

/-- An edge at which the host issues a command word. -/
def commandEdge (w : CommandWord) : EdgeInput := { rst := false, cmdValid := true, cmd := w }

/-- An edge at which the host does nothing. -/
def idleEdge : EdgeInput := { rst := false, cmdValid := false, cmd := 0 }

/-- An edge with `rst = 1`, whatever else the host drives. -/
def resetEdge (cmdValid : Bool) (cmd : CommandWord) : EdgeInput := { rst := true, cmdValid := cmdValid, cmd := cmd }

/-- What an edge asks of the block. -/
inductive Event where
  | reset
  | idle
  | command (i : Instr)
  deriving DecidableEq, Repr

/-- `rst` comes first and the command of that cycle is ignored (R230); with `cmd_valid` the command on
`cmd` executes; with neither, nothing does (R235). -/
def eventOf (e : EdgeInput) : Event :=
  if e.rst then .reset else if e.cmdValid then .command (decode e.cmd) else .idle

/-- The event of the coming edge. Where the host drives nothing more, the block waits (R214, R231, log 1). -/
def nextEvent (s : State) : Event :=
  match s.port with
  | [] => .idle
  | e :: _ => eventOf e

/-! ### What an edge does -/

/-- What every edge does before its event: it is used up, and the strobe falls (R235, R236). -/
def passEdge (s : State) : State := (s.setPort s.port.tail).setSampleValid false

/-- The reset input (R230): the register writes of `INIT`, and `err`, `sample_out` and `sample_valid` cleared. -/
def resetRegisters (s : State) : State :=
  (((initRegisters s).setErr 0).setSampleOut 0).setSampleValid false

/-! ### Outputs -/

/-- `cmd_ready` is constant 1: a command is accepted in every cycle (R234). -/
def cmdReady (_ : State) : Bool := true

/-- The read-only outputs (R32, R234). -/
structure StatusOutputs where
  phaseAcc    : Word
  phaseInc    : Word
  amplitude   : BitVec 8
  waveform    : BitVec 3
  resolution  : BitVec 2
  interp      : BitVec 2
  userFn      : Word
  err         : BitVec 2
  sampleOut   : Sample
  sampleValid : Bool
  deriving DecidableEq, Repr

/-- Every output equals its register (R32); reading has no side effect. -/
def statusOutputs (s : State) : StatusOutputs where
  phaseAcc    := s.phaseAcc
  phaseInc    := s.phaseInc
  amplitude   := s.amplitude
  waveform    := waveformBits s.waveform
  resolution  := resolutionBits s.resolution
  interp      := interpBits s.interp
  userFn      := s.userFn
  err         := s.err
  sampleOut   := s.sampleOut
  sampleValid := s.sampleValid

/-! ### Requests to the external collaborators -/

/-- One table read: a class, a kind and an entry index (R50). -/
structure TableAddr where
  cls  : Resolution
  kind : Kind4
  idx  : Nat
  deriving DecidableEq, Repr

/-- The user path is taken (R151). -/
def takesUserPath (s : State) : Bool := decide (s.waveform = .user ∧ s.userFn ≠ 0)

/-- The user-function call that the sample at phase `acc` makes, if any: handle and phase (R55, R56). -/
def userRequest (s : State) (acc : Word) : Option (Word × Word) :=
  if takesUserPath s then some (s.userFn, acc) else none

/-- The table entries that the sample at phase `acc` reads, in order: none on the user path and for the
user kind, 1 in C8_256, and 1, 2 or 3 in a 1024-sample class (R53, R168). -/
def tableReads (s : State) (acc : Word) : List TableAddr :=
  match tableKind s.waveform with
  | none => []
  | some kind =>
    match s.resolution, s.interp with
    | .c8_256, _ => [⟨.c8_256, kind, index256 acc⟩]
    | cls, .off => [⟨cls, kind, index1024 acc⟩]
    | cls, .linear => [⟨cls, kind, index1024 acc⟩, ⟨cls, kind, (index1024 acc + 1) % 1024⟩]
    | cls, .quadratic =>
      [⟨cls, kind, index1024 acc⟩, ⟨cls, kind, (index1024 acc + 1) % 1024⟩, ⟨cls, kind, (index1024 acc + 2) % 1024⟩]

/-- What `tbl_idx0` says (R234): all ten bits, or `tbl_idx0[7:0]` alone, in C8_256. There the spec leaves
`tbl_idx0[9:8]` open, and those two bits have no value here. DESIGN CHOICE (log 12). -/
inductive FirstIndex where
  | low8 (i : BitVec 8)
  | all10 (i : BitVec 10)
  deriving DecidableEq, Repr

/-- The table port in one cycle (R234): in C8_256 only `tbl_idx0[7:0]` is meaningful, so the other bits
of `tbl_idx0` and the other two indices are absent there. DESIGN CHOICE (log 12). -/
structure TablePort where
  cls  : BitVec 2
  kind : BitVec 2
  idx0 : FirstIndex
  idx1 : Option (BitVec 10)
  idx2 : Option (BitVec 10)
  deriving DecidableEq, Repr

/-- What the table port carries for the sample at phase `acc`, where its path reads a table (R234). In
C8_256 it gives `tbl_idx0[9:8]`, `tbl_idx1` and `tbl_idx2` no value: DESIGN CHOICE (log 12). -/
def tablePortAt (s : State) (acc : Word) : Option TablePort :=
  match tableKind s.waveform with
  | none => none
  | some kind =>
    some <|
      match s.resolution with
      | .c8_256 => ⟨resolutionBits s.resolution, kindBits kind, .low8 (BitVec.ofNat 8 (index256 acc)), none, none⟩
      | .c8_1024 | .c16_1024 =>
        ⟨resolutionBits s.resolution, kindBits kind, .all10 (BitVec.ofNat 10 (index1024 acc)),
          some (BitVec.ofNat 10 ((index1024 acc + 1) % 1024)), some (BitVec.ofNat 10 ((index1024 acc + 2) % 1024))⟩

/-- The phase that the coming edge samples, if it accepts a `NEXT_SAMPLE`: the block looks at its data
inputs in such a cycle only (R234). -/
def sampledPhase (s : State) : Option Word :=
  match nextEvent s with
  | .command .nextSample => some (s.phaseAcc + s.phaseInc)
  | _ => none

/-- `tbl_cls`, `tbl_kind` and `tbl_idx*` in the coming cycle (R234); in a cycle without a read they have no
value. DESIGN CHOICE (log 12). -/
def tablePort (s : State) : Option TablePort := (sampledPhase s).bind (tablePortAt s)

/-- `usr_handle` and `usr_phase` in the coming cycle (R234); in a cycle without a call they have no value.
DESIGN CHOICE (log 12). -/
def userPort (s : State) : Option (Word × Word) := (sampledPhase s).bind (userRequest s)

end Sys2Proof.Machine
end

