-- ==== Sys2Proof/Machine/Step.lean ====
section
/-! DEFINITION. One step: one rising edge of `clk` (70_reset_and_hazards.md R230, R235, R237). A command
takes exactly one step, and sees every effect of every step before it (20_memory.md R62, R238). The
length of a cycle is left out (log 13). -/

namespace Sys2Proof.Machine

/-- The block at one edge. -/
def step (s : State) : Host.Outcome State Fault Refusal :=
  match nextEvent s with
  | .reset => .next (resetRegisters (passEdge s))
  | .idle => .next (passEdge s)
  | .command i => exec i (passEdge s)

/-- `s` with the host issuing the command whose bits are `w` at the very next edge, before whatever it was
going to drive (log 7). The command port is 68 bits wide (R234). -/
def State.withFetchWord (s : State) (nbits w : Nat) : State :=
  s.setPort (commandEdge (BitVec.ofNat 68 (w % 2 ^ nbits)) :: s.port)

end Sys2Proof.Machine
end

