-- ==== Sys2Proof/Machine/Assembler.lean ====
section
/-! DEFINITION. The assembler's text form of the commands (30_encoding.md R87, R88): notation only, no
state. Points the rules leave open are in log 11. -/

namespace Sys2Proof.Machine

/-! ### Numbers -/

/-- The value of a hexadecimal digit. -/
def digitValue (c : Char) : Option Nat :=
  if 48 ≤ c.toNat ∧ c.toNat ≤ 57 then some (c.toNat - 48)
  else if 65 ≤ c.toNat ∧ c.toNat ≤ 70 then some (c.toNat - 55)
  else if 97 ≤ c.toNat ∧ c.toNat ≤ 102 then some (c.toNat - 87)
  else none

/-- Digits in `base`, most significant first, after a value already read. -/
def digitsFrom (base acc : Nat) : List Char → Option Nat
  | [] => some acc
  | c :: cs =>
    match digitValue c with
    | some d => if d < base then digitsFrom base (base * acc + d) cs else none
    | none => none

/-- One digit or more. -/
def digits (base : Nat) (t : List Char) : Option Nat :=
  match t with
  | [] => none
  | cs => digitsFrom base 0 cs

/-- A decimal integer, or a hex integer `0x...` (R87). -/
def number (t : List Char) : Option Nat :=
  match t with
  | '0' :: 'x' :: cs => digits 16 cs
  | cs => digits 10 cs

/-- A number that fits a field of `bits` bits (R87). -/
def fieldNumber (bits : Nat) (t : List Char) : Option Nat := (number t).filter (· < 2 ^ bits)

/-- A 32-bit operand. -/
def operand32 (t : List Char) : Option Word := (fieldNumber 32 t).map (BitVec.ofNat 32)

/-- The operand of `SET_AMP_PCT`: a decimal integer may have a leading `-` (R87). -/
def percentOperand (t : List Char) : Option Word :=
  match t with
  | '-' :: cs => ((digits 10 cs).filter (· ≤ 2 ^ 31)).map (fun n => ofSigned32 (-(n : Int)))
  | cs => operand32 cs

/-- A selector operand: one of its names, which stand for 0, 1, ... in order, or a number (R87). -/
def selectorOperand (names : List String) (t : List Char) : Option Word :=
  match names.findIdx? (fun n => n.toList == t) with
  | some k => some (BitVec.ofNat 32 k)
  | none => operand32 t

/-! ### Lines -/

/-- A space character. -/
def isBlank (c : Char) : Bool := c == ' ' || c == '\t' || c == '\r'

/-- Without the blanks at both ends. -/
def trimBlanks (t : List Char) : List Char := ((t.dropWhile isBlank).reverse.dropWhile isBlank).reverse

/-- The pieces of a text between the places where `sep` stands. -/
def splitAt (sep : Char) : List Char → List (List Char)
  | [] => [[]]
  | c :: cs =>
    if c = sep then [] :: splitAt sep cs
    else
      match splitAt sep cs with
      | [] => [[c]]
      | p :: ps => (c :: p) :: ps

/-- The operands of a line: comma-separated, none where nothing follows the mnemonic. -/
def operandTexts (t : List Char) : List (List Char) :=
  match trimBlanks t with
  | [] => []
  | u => (splitAt ',' u).map trimBlanks

/-- One command of format N. -/
def lineN (op : BitVec 4) (ops : List (List Char)) : Option (List CommandWord) :=
  match ops with
  | [] => some [mkWord op 0 0]
  | _ => none

/-- One command of format A, its operand read by `read`. -/
def lineA (op : BitVec 4) (read : List Char → Option Word) (ops : List (List Char)) : Option (List CommandWord) :=
  match ops with
  | [a] => (read a).map (fun v => [mkWord op 0 v])
  | _ => none

/-- One command of format AB, its first operand read by `read`. -/
def lineAB (op : BitVec 4) (read : List Char → Option Word) (ops : List (List Char)) : Option (List CommandWord) :=
  match ops with
  | [a, b] =>
    match read a, operand32 b with
    | some u, some v => some [mkWord op v u]
    | _, _ => none
  | _ => none

/-- Integer Hz in [0, 65535], as Q16.16 (R88: `SET_FREQ_HZ`). -/
def integerHz (t : List Char) : Option Word := (fieldNumber 16 t).map (fun f => BitVec.ofNat 32 (f * 65536))

/-- `TICK n`: `NEXT_SAMPLE` written `n` times, `n >= 1` (R88). -/
def lineTick (ops : List (List Char)) : Option (List CommandWord) :=
  match ops with
  | [a] => ((number a).filter (1 ≤ ·)).map (fun n => List.replicate n (mkWord 0xC 0 0))
  | _ => none

/-- `.cmd 0xD` to `.cmd 0xF`: a reserved opcode, both operands 0 (R87). -/
def lineCmd (ops : List (List Char)) : Option (List CommandWord) :=
  match ops with
  | ['0' :: 'x' :: cs] =>
    ((digits 16 cs).filter (fun n => 13 ≤ n && n ≤ 15)).map (fun n => [mkWord (BitVec.ofNat 4 n) 0 0])
  | _ => none

/-- The mnemonics (R84, R87) and the pseudo-commands (R88), each with how its operands are read. -/
def lineForms : List (String × (List (List Char) → Option (List CommandWord))) := [
  ("INIT", lineN 0x0),
  ("SET_FREQ", lineAB 0x1 operand32),
  ("SET_NOTE", lineAB 0x2 operand32),
  ("SET_AMP_RAW", lineA 0x3 (fun t => (fieldNumber 8 t).map (BitVec.ofNat 32))),
  ("SET_AMP_PCT", lineA 0x4 percentOperand),
  ("SET_WAVE", lineA 0x5 (selectorOperand ["sine", "square", "triangle", "sawtooth", "user"])),
  ("SET_RES", lineA 0x6 (selectorOperand ["c8_256", "c8_1024", "c16_1024"])),
  ("SET_INTERP", lineA 0x7 (selectorOperand ["off", "linear", "quadratic"])),
  ("SET_USER_WAVE", lineA 0x8 operand32),
  ("CLEAR_USER_WAVE", lineN 0x9),
  ("SET_USER_INC", lineA 0xA operand32),
  ("SILENCE", lineN 0xB),
  ("NEXT_SAMPLE", lineN 0xC),
  (".cmd", lineCmd),
  ("SET_FREQ_HZ", lineAB 0x1 integerHz),
  ("MUTE", fun ops => if ops = [] then some [mkWord 0x3 0 0] else none),
  ("UNITY", fun ops => if ops = [] then some [mkWord 0x3 0 255] else none),
  ("TICK", lineTick)]

/-- The words of one line; a line with no command, a comment apart, has none (R87). -/
def assembleLine (line : List Char) : Option (List CommandWord) :=
  match trimBlanks (line.takeWhile (· != ';')) with
  | [] => some []
  | text =>
    match lineForms.find? (fun p => p.1.toList == text.takeWhile (fun c => !isBlank c)) with
    | some p => p.2 (operandTexts (text.dropWhile (fun c => !isBlank c)))
    | none => none

/-- The words of lines, in order; nothing if some line is none of R87 and R88. -/
def assembleLines : List (List Char) → Option (List CommandWord)
  | [] => some []
  | l :: ls =>
    match assembleLine l, assembleLines ls with
    | some ws, some vs => some (ws ++ vs)
    | _, _ => none

/-- The words of a text, one command per line (R87). -/
def assemble (text : String) : Option (List CommandWord) := assembleLines (splitAt '\n' text.toList)

end Sys2Proof.Machine
end

