-- ==== Sys2Proof/Laws/Assembler.lean ====
section
/-! SUPPORT. What the assembler reads (30_encoding.md R87): the characters of a number, and the words of a
line that a mnemonic and its operands make. -/

namespace Sys2Proof.Machine

/-! ### Characters -/

/-- A character that stands inside a mnemonic or an operand: no blank and no separator. -/
def isPlain (c : Char) : Bool := !isBlank c && c != ',' && c != ';' && c != '\n'

theorem isPlain_not_blank {c : Char} (h : isPlain c = true) : isBlank c = false := by
  simp [isPlain] at h; exact h.1.1.1

theorem isPlain_ne {c : Char} (h : isPlain c = true) : c ≠ ',' ∧ c ≠ ';' ∧ c ≠ '\n' := by
  simp [isPlain] at h; exact ⟨h.1.1.2, h.1.2, h.2⟩

theorem isPlain_of_digitValue {c : Char} {d : Nat} (h : digitValue c = some d) : isPlain c = true := by
  by_contra hc
  simp only [isPlain, isBlank, Bool.not_eq_true, Bool.and_eq_false_iff, Bool.not_eq_false', Bool.or_eq_true, beq_iff_eq,
    bne_eq_false_iff_eq] at hc
  rcases hc with ((((rfl | rfl) | rfl) | rfl) | rfl) | rfl <;>
    exact absurd (h.symm.trans (by decide : digitValue _ = none)) (by simp)

theorem digitsFrom_isPlain {base acc n : Nat} {t : List Char} (h : digitsFrom base acc t = some n) :
    ∀ c ∈ t, isPlain c = true := by
  induction t generalizing acc with
  | nil => simp
  | cons c cs ih =>
    simp only [digitsFrom] at h
    split at h
    · rename_i d hd
      split at h
      · intro x hx
        rcases List.mem_cons.1 hx with rfl | hx
        · exact isPlain_of_digitValue hd
        · exact ih h x hx
      · cases h
    · cases h

theorem digits_isPlain {base n : Nat} {t : List Char} (h : digits base t = some n) :
    t ≠ [] ∧ ∀ c ∈ t, isPlain c = true := by
  unfold digits at h
  split at h
  · cases h
  · rename_i hne; exact ⟨hne, digitsFrom_isPlain h⟩

/-- A text that reads as a number is one word. -/
theorem number_isPlain {n : Nat} {t : List Char} (h : number t = some n) : t ≠ [] ∧ ∀ c ∈ t, isPlain c = true := by
  unfold number at h
  split at h
  · refine ⟨by simp, fun c hc => ?_⟩
    simp only [List.mem_cons] at hc
    rcases hc with rfl | rfl | hc
    · decide
    · decide
    · exact (digits_isPlain h).2 c hc
  · exact digits_isPlain h

/-! ### Pieces -/

theorem splitAt_of_not_mem {sep : Char} {t : List Char} (h : sep ∉ t) : splitAt sep t = [t] := by
  induction t with
  | nil => rfl
  | cons c cs ih =>
    simp only [List.mem_cons, not_or] at h
    simp [splitAt, Ne.symm h.1, ih h.2]

theorem splitAt_append {sep : Char} {t u : List Char} (h : sep ∉ t) :
    splitAt sep (t ++ sep :: u) = t :: splitAt sep u := by
  induction t with
  | nil => simp [splitAt]
  | cons c cs ih =>
    simp only [List.mem_cons, not_or] at h
    simp [splitAt, Ne.symm h.1, ih h.2]

/-- A text with no blank at either end has none to lose. -/
theorem trimBlanks_eq_self {t u v : List Char} {c d : Char} (hc : isBlank c = false) (hd : isBlank d = false)
    (h : t = c :: u) (h' : t = v ++ [d]) : trimBlanks t = t := by
  have h1 : t.dropWhile isBlank = t := by rw [h, List.dropWhile_cons_of_neg (by simp [hc])]
  have h2 : t.reverse.dropWhile isBlank = t.reverse := by
    rw [h', List.reverse_append]
    exact List.dropWhile_cons_of_neg (by simp [hd])
  rw [trimBlanks, h1, h2, List.reverse_reverse]

theorem trimBlanks_blank (t : List Char) : trimBlanks (' ' :: t) = trimBlanks t := rfl

/-- The ends of a text are plain: one word, or several with whatever between. -/
theorem trimBlanks_between {a m b : List Char} (ha : a ≠ []) (hb : b ≠ []) (pa : ∀ c ∈ a, isPlain c = true)
    (pb : ∀ c ∈ b, isPlain c = true) : trimBlanks (a ++ m ++ b) = a ++ m ++ b := by
  obtain ⟨c, u, rfl⟩ := List.exists_cons_of_ne_nil ha
  obtain ⟨v, d, rfl⟩ := (List.eq_nil_or_concat b).resolve_left hb
  exact trimBlanks_eq_self (v := c :: u ++ m ++ v) (isPlain_not_blank (pa c (by simp)))
    (isPlain_not_blank (pb d (by simp))) rfl (by simp)

theorem trimBlanks_word {a : List Char} (pa : ∀ c ∈ a, isPlain c = true) : trimBlanks a = a := by
  match a, List.eq_nil_or_concat a with
  | [], _ => rfl
  | c :: u, .inr ⟨v, d, h⟩ =>
    exact trimBlanks_eq_self (isPlain_not_blank (pa c (by simp))) (isPlain_not_blank (pa d (by simp [h]))) rfl
      (h.trans (List.concat_eq_append ..))

theorem operandTexts_one {a : List Char} (ha : a ≠ []) (pa : ∀ c ∈ a, isPlain c = true) :
    operandTexts (' ' :: a) = [a] := by
  have : ',' ∉ a := fun h => (isPlain_ne (pa _ h)).1 rfl
  rw [operandTexts, trimBlanks_blank, trimBlanks_word pa]
  split
  · contradiction
  · rw [splitAt_of_not_mem this, List.map_singleton, trimBlanks_word pa]

theorem operandTexts_two {a b : List Char} (ha : a ≠ []) (hb : b ≠ []) (pa : ∀ c ∈ a, isPlain c = true)
    (pb : ∀ c ∈ b, isPlain c = true) : operandTexts (' ' :: (a ++ [',', ' '] ++ b)) = [a, b] := by
  have na : ',' ∉ a := fun h => (isPlain_ne (pa _ h)).1 rfl
  have nb : ',' ∉ ' ' :: b := by
    rw [List.mem_cons]
    rintro (h | h)
    · exact absurd h (by decide)
    · exact (isPlain_ne (pb _ h)).1 rfl
  rw [operandTexts, trimBlanks_blank, trimBlanks_between ha hb pa pb]
  split
  · simp_all
  · have e : a ++ [',', ' '] ++ b = a ++ ',' :: (' ' :: b) := by simp
    rw [e, splitAt_append na, splitAt_of_not_mem nb]
    simp [trimBlanks_blank, trimBlanks_word pa, trimBlanks_word pb]

/-! ### Lines -/

/-- What the form of a mnemonic makes of its operands. -/
def lineWords (m : List Char) (ops : List (List Char)) : Option (List CommandWord) :=
  match lineForms.find? (fun p => p.1.toList == m) with
  | some p => p.2 ops
  | none => none

theorem lineWords_setFreq (ops : List (List Char)) : lineWords "SET_FREQ".toList ops = lineAB 0x1 operand32 ops := rfl

theorem lineWords_setFreqHz (ops : List (List Char)) : lineWords "SET_FREQ_HZ".toList ops = lineAB 0x1 integerHz ops :=
  rfl

theorem lineWords_tick (ops : List (List Char)) : lineWords "TICK".toList ops = lineTick ops := rfl

/-- A line of a mnemonic and its operand texts, with no blank at the end and no comment. -/
theorem assembleLine_eq {m rest : List Char} (hm : m ≠ []) (pm : ∀ c ∈ m, isPlain c = true)
    (hs : ';' ∉ m ++ rest) (ht : trimBlanks (m ++ rest) = m ++ rest)
    (hr : ∀ c, rest.head? = some c → isBlank c = true) :
    assembleLine (m ++ rest) = lineWords m (operandTexts rest) := by
  have hc : (m ++ rest).takeWhile (· != ';') = m ++ rest :=
    List.takeWhile_eq_self_iff.2 fun c h => by simpa using fun e : c = ';' => hs (e ▸ h)
  have pm' : ∀ c ∈ m, (!isBlank c) = true := fun c h => by simp [isPlain_not_blank (pm c h)]
  have h1 : (m ++ rest).takeWhile (fun c => !isBlank c) = m := by
    rw [List.takeWhile_append_of_pos pm']
    cases rest with
    | nil => simp
    | cons c cs => rw [List.takeWhile_cons_of_neg (by simp [hr c rfl]), List.append_nil]
  have h2 : (m ++ rest).dropWhile (fun c => !isBlank c) = rest := by
    rw [List.dropWhile_append_of_pos pm']
    cases rest with
    | nil => rfl
    | cons c cs => rw [List.dropWhile_cons_of_neg (by simp [hr c rfl])]
  rw [assembleLine, hc, ht]
  split
  · simp_all
  · rw [h1, h2]; rfl

theorem not_mem_of_isPlain {t : List Char} (pt : ∀ c ∈ t, isPlain c = true) : ';' ∉ t ∧ '\n' ∉ t :=
  ⟨fun h => (isPlain_ne (pt _ h)).2.1 rfl, fun h => (isPlain_ne (pt _ h)).2.2 rfl⟩

/-- `MNEMONIC arg0`. -/
theorem assembleLine_one {m a : List Char} (hm : m ≠ []) (ha : a ≠ []) (pm : ∀ c ∈ m, isPlain c = true)
    (pa : ∀ c ∈ a, isPlain c = true) : assembleLine (m ++ ' ' :: a) = lineWords m [a] := by
  rw [assembleLine_eq hm pm, operandTexts_one ha pa]
  · simp [(not_mem_of_isPlain pm).1, (not_mem_of_isPlain pa).1]
  · simpa using trimBlanks_between (m := [' ']) hm ha pm pa
  · simp [isBlank]

/-- `MNEMONIC arg0, arg1`. -/
theorem assembleLine_two {m a b : List Char} (hm : m ≠ []) (ha : a ≠ []) (hb : b ≠ [])
    (pm : ∀ c ∈ m, isPlain c = true) (pa : ∀ c ∈ a, isPlain c = true) (pb : ∀ c ∈ b, isPlain c = true) :
    assembleLine (m ++ ' ' :: (a ++ [',', ' '] ++ b)) = lineWords m [a, b] := by
  rw [assembleLine_eq hm pm, operandTexts_two ha hb pa pb]
  · simp [(not_mem_of_isPlain pm).1, (not_mem_of_isPlain pa).1, (not_mem_of_isPlain pb).1]
  · simpa using trimBlanks_between (m := ' ' :: (a ++ [',', ' '])) hm hb pm pb
  · simp [isBlank]

/-- A text of one line. -/
theorem assemble_line {text : String} (h : '\n' ∉ text.toList) : assemble text = assembleLine text.toList := by
  rw [assemble, splitAt_of_not_mem h]
  cases h : assembleLine text.toList <;> simp [assembleLines, h]

/-- A text whose first line is `l`. -/
theorem assembleLines_cons (l : List Char) (ls : List (List Char)) :
    assembleLines (l :: ls) =
      match assembleLine l, assembleLines ls with
      | some ws, some vs => some (ws ++ vs)
      | _, _ => none := rfl

end Sys2Proof.Machine
end

