-- ==== Sys2Proof/Laws/Arith.lean ====
section
/-! SUPPORT. What the integer operators of 00_scope.md R14 give. -/

namespace Sys2Proof.Machine

/-- `a >> k` is the integer `q` with `q * 2^k <= a < (q + 1) * 2^k`. -/
theorem shiftRight_bounds (a : Int) (k : Nat) :
    shiftRight a k * 2 ^ k ≤ a ∧ a < (shiftRight a k + 1) * 2 ^ k := by
  have hp : (0 : Int) < 2 ^ k := by positivity
  refine ⟨Int.ediv_mul_le a hp.ne', ?_⟩
  simpa [shiftRight, floorDiv, add_mul] using Int.lt_ediv_add_one_mul_self a hp

/-- `>>` keeps the order. -/
theorem shiftRight_mono {a b : Int} (h : a ≤ b) (k : Nat) : shiftRight a k ≤ shiftRight b k :=
  Int.ediv_le_ediv (by positivity) h

/-- `>>` of a number that is not negative is not negative. -/
theorem shiftRight_nonneg {a : Int} (h : 0 ≤ a) (k : Nat) : 0 ≤ shiftRight a k :=
  Int.ediv_nonneg h (by positivity)

@[simp] theorem shiftRight_zero (k : Nat) : shiftRight 0 k = 0 := by simp [shiftRight, floorDiv]

/-- The nearest integer, ties going up: `q - 1/2 <= n/d < q + 1/2`. -/
theorem roundHalfUp_spec (n : Nat) {d : Nat} (hd : 0 < d) :
    roundHalfUp n d * (2 * d) ≤ 2 * n + d ∧ 2 * n + d < (roundHalfUp n d + 1) * (2 * d) :=
  ⟨Nat.div_mul_le_self _ _, by
    simpa [roundHalfUp, add_mul] using Nat.lt_div_mul_add (a := 2 * n + d) (b := 2 * d) (by omega)⟩

@[simp] theorem roundHalfUp_zero (d : Nat) : roundHalfUp 0 d = 0 := by
  rcases Nat.eq_zero_or_pos d with rfl | h
  · rfl
  · exact Nat.div_eq_of_lt (by omega)

/-- Scaling numerator and denominator alike changes nothing. -/
theorem roundHalfUp_mul (n d : Nat) {k : Nat} (hk : 0 < k) : roundHalfUp (n * k) (d * k) = roundHalfUp n d := by
  unfold roundHalfUp
  rw [show 2 * (n * k) + d * k = k * (2 * n + d) by ring, show 2 * (d * k) = k * (2 * d) by ring,
    Nat.mul_div_mul_left _ _ hk]

/-- Adding a whole number of denominators adds that number. -/
theorem roundHalfUp_add (n m : Nat) {d : Nat} (hd : 0 < d) : roundHalfUp (n + m * d) d = roundHalfUp n d + m := by
  unfold roundHalfUp
  rw [show 2 * (n + m * d) + d = 2 * n + d + m * (2 * d) by ring, Nat.add_mul_div_right _ _ (by omega)]

end Sys2Proof.Machine
end

