-- ==== Sys2Proof/Machine/Datapath.lean ====
section
/-! DEFINITION. The block between its ports, as 41_sample_production.md R164 says it may be built: a
datapath of 32-bit two's-complement words with arithmetic right shifts, fed by the data inputs of
70_reset_and_hazards.md R234. The machine does not run it; that it computes the samples of R150 to R163
is a statement. -/

namespace Sys2Proof.Machine

open Config (Env)

/-- The data inputs of one cycle (R234): three table entries, zero-extended to 16 bits, and the result
of the user function. -/
structure PortData where
  tbl0 : Sample
  tbl1 : Sample
  tbl2 : Sample
  usr  : Sample
  deriving DecidableEq, Repr

/-- `tbl_data<n>`. -/
def tableData (d : PortData) : Nat → Sample
  | 0 => d.tbl0
  | 1 => d.tbl1
  | _ => d.tbl2

/-- The collaborators' duty in the cycle that samples phase `acc` (R241): the inputs that the path in
use reads answer its requests. The other inputs may hold anything (R234). -/
def Answers (env : Env) (s : State) (acc : Word) (d : PortData) : Prop :=
  (∀ h p, userRequest s acc = some (h, p) → d.usr = env.userFunction h p) ∧
  (∀ n r, (tableReads s acc)[n]? = some r → (tableData d n).toNat = tableRead env r.cls r.kind r.idx)

/-- `Lin` on words (R159, R164). -/
def linear32 (a b f : Word) : Word := a + ((b - a) * f).sshiftRight 10

/-- `y` of R160 on words, before the clamp (R164). -/
def quadraticRaw32 (p0 p1 p2 f : Word) : Word :=
  p1 + ((p2 - p0) * f).sshiftRight 11 + ((p0 - 2 * p1 + p2) * (f * f).sshiftRight 10).sshiftRight 11

/-- The clamp of R160, with signed comparisons. -/
def clamp32 (y max : Word) : Word := if y.slt 0 then 0 else if max.slt y then max else y

/-- `Scale` on words (R163, R164), cut to the width of `sample_out`. -/
def scale32 (amplitude : BitVec 8) (v : Word) : Sample :=
  ((v * amplitude.setWidth 32).sshiftRight 8).setWidth 16

/-- The mode dispatch (R157) on the data inputs. -/
def interpolate32 (mode : InterpMode) (max : Word) (d : PortData) (f : Word) : Word :=
  match mode with
  | .off => d.tbl0.setWidth 32
  | .linear => linear32 (d.tbl0.setWidth 32) (d.tbl1.setWidth 32) f
  | .quadratic => clamp32 (quadraticRaw32 (d.tbl0.setWidth 32) (d.tbl1.setWidth 32) (d.tbl2.setWidth 32) f) max

/-- The value of a table path before scaling, by class (R152 to R157). -/
def datapathValue (s : State) (acc : Word) (d : PortData) : Word :=
  match s.resolution with
  | .c8_256 => d.tbl0.setWidth 32
  | .c8_1024 => interpolate32 s.interp 255 d ((acc.extractLsb' 12 10).setWidth 32)
  | .c16_1024 => interpolate32 s.interp 65535 d ((acc.extractLsb' 12 10).setWidth 32)

/-- What the datapath puts into `sample_out` (R150 to R164). -/
def datapathSample (s : State) (acc : Word) (d : PortData) : Sample :=
  if takesUserPath s then scale32 s.amplitude (d.usr.setWidth 32)
  else
    match tableKind s.waveform with
    | none => 0
    | some _ => scale32 s.amplitude (datapathValue s acc d)

end Sys2Proof.Machine
end

