-- ==== Sys2Proof/Laws/Datapath.lean ====
section
/-! SUPPORT. Word arithmetic that does not leave 32 bits is integer arithmetic
(41_sample_production.md R164): one lemma per operator of the datapath. -/

namespace Sys2Proof.Machine

/-- An integer that 32 bits hold is its own balanced residue. -/
theorem bmod_of_fits {a : Int} (h : -2 ^ 31 ≤ a ∧ a < 2 ^ 31) : Int.bmod a (2 ^ 32) = a := by
  apply Int.bmod_eq_of_le <;> omega

theorem toInt_add_of_fits {x y : Word} (h : -2 ^ 31 ≤ x.toInt + y.toInt ∧ x.toInt + y.toInt < 2 ^ 31) :
    (x + y).toInt = x.toInt + y.toInt := by
  rw [BitVec.toInt_add, bmod_of_fits h]

theorem toInt_sub_of_fits {x y : Word} (h : -2 ^ 31 ≤ x.toInt - y.toInt ∧ x.toInt - y.toInt < 2 ^ 31) :
    (x - y).toInt = x.toInt - y.toInt := by
  rw [BitVec.toInt_sub, bmod_of_fits h]

theorem toInt_mul_of_fits {x y : Word} (h : -2 ^ 31 ≤ x.toInt * y.toInt ∧ x.toInt * y.toInt < 2 ^ 31) :
    (x * y).toInt = x.toInt * y.toInt := by
  rw [BitVec.toInt_mul, bmod_of_fits h]

/-- The arithmetic right shift of a word is `>>` (R14). -/
theorem toInt_sshiftRight_eq (x : Word) (k : Nat) : (x.sshiftRight k).toInt = shiftRight x.toInt k := by
  rw [BitVec.toInt_sshiftRight, Int.shiftRight_eq_div_pow]
  rfl

/-- A data input, zero-extended to a word, is the number it holds. -/
theorem toInt_setWidth_sample (x : Sample) : (x.setWidth 32).toInt = x.toNat := by
  have := x.isLt
  rw [BitVec.toInt_eq_toNat_of_lt] <;> simp <;> omega

/-- The magnitude of a product, from those of its factors (the table of R164). -/
theorem abs_mul_le {a b A B : Int} (ha : |a| ≤ A) (hb : |b| ≤ B) : |a * b| ≤ A * B := by
  rw [abs_mul]
  exact mul_le_mul ha hb (abs_nonneg b) ((abs_nonneg a).trans ha)

end Sys2Proof.Machine
end

