-- ==== Sys2Proof/Laws/State.lean ====
section
/-! SUPPORT. One lemma per field per register write: the field written holds the value, every other
field is as it was. -/

namespace Sys2Proof.Machine

variable (s : State)

@[simp] theorem State.setPhaseAcc_phaseAcc (v : Word) : (s.setPhaseAcc v).phaseAcc = v := rfl
@[simp] theorem State.setPhaseAcc_phaseInc (v : Word) : (s.setPhaseAcc v).phaseInc = s.phaseInc := rfl
@[simp] theorem State.setPhaseAcc_amplitude (v : Word) : (s.setPhaseAcc v).amplitude = s.amplitude := rfl
@[simp] theorem State.setPhaseAcc_waveform (v : Word) : (s.setPhaseAcc v).waveform = s.waveform := rfl
@[simp] theorem State.setPhaseAcc_resolution (v : Word) : (s.setPhaseAcc v).resolution = s.resolution := rfl
@[simp] theorem State.setPhaseAcc_interp (v : Word) : (s.setPhaseAcc v).interp = s.interp := rfl
@[simp] theorem State.setPhaseAcc_userFn (v : Word) : (s.setPhaseAcc v).userFn = s.userFn := rfl
@[simp] theorem State.setPhaseAcc_err (v : Word) : (s.setPhaseAcc v).err = s.err := rfl
@[simp] theorem State.setPhaseAcc_sampleOut (v : Word) : (s.setPhaseAcc v).sampleOut = s.sampleOut := rfl
@[simp] theorem State.setPhaseAcc_sampleValid (v : Word) : (s.setPhaseAcc v).sampleValid = s.sampleValid := rfl
@[simp] theorem State.setPhaseAcc_port (v : Word) : (s.setPhaseAcc v).port = s.port := rfl

@[simp] theorem State.setPhaseInc_phaseAcc (v : Word) : (s.setPhaseInc v).phaseAcc = s.phaseAcc := rfl
@[simp] theorem State.setPhaseInc_phaseInc (v : Word) : (s.setPhaseInc v).phaseInc = v := rfl
@[simp] theorem State.setPhaseInc_amplitude (v : Word) : (s.setPhaseInc v).amplitude = s.amplitude := rfl
@[simp] theorem State.setPhaseInc_waveform (v : Word) : (s.setPhaseInc v).waveform = s.waveform := rfl
@[simp] theorem State.setPhaseInc_resolution (v : Word) : (s.setPhaseInc v).resolution = s.resolution := rfl
@[simp] theorem State.setPhaseInc_interp (v : Word) : (s.setPhaseInc v).interp = s.interp := rfl
@[simp] theorem State.setPhaseInc_userFn (v : Word) : (s.setPhaseInc v).userFn = s.userFn := rfl
@[simp] theorem State.setPhaseInc_err (v : Word) : (s.setPhaseInc v).err = s.err := rfl
@[simp] theorem State.setPhaseInc_sampleOut (v : Word) : (s.setPhaseInc v).sampleOut = s.sampleOut := rfl
@[simp] theorem State.setPhaseInc_sampleValid (v : Word) : (s.setPhaseInc v).sampleValid = s.sampleValid := rfl
@[simp] theorem State.setPhaseInc_port (v : Word) : (s.setPhaseInc v).port = s.port := rfl

@[simp] theorem State.setAmplitude_phaseAcc (v : BitVec 8) : (s.setAmplitude v).phaseAcc = s.phaseAcc := rfl
@[simp] theorem State.setAmplitude_phaseInc (v : BitVec 8) : (s.setAmplitude v).phaseInc = s.phaseInc := rfl
@[simp] theorem State.setAmplitude_amplitude (v : BitVec 8) : (s.setAmplitude v).amplitude = v := rfl
@[simp] theorem State.setAmplitude_waveform (v : BitVec 8) : (s.setAmplitude v).waveform = s.waveform := rfl
@[simp] theorem State.setAmplitude_resolution (v : BitVec 8) : (s.setAmplitude v).resolution = s.resolution := rfl
@[simp] theorem State.setAmplitude_interp (v : BitVec 8) : (s.setAmplitude v).interp = s.interp := rfl
@[simp] theorem State.setAmplitude_userFn (v : BitVec 8) : (s.setAmplitude v).userFn = s.userFn := rfl
@[simp] theorem State.setAmplitude_err (v : BitVec 8) : (s.setAmplitude v).err = s.err := rfl
@[simp] theorem State.setAmplitude_sampleOut (v : BitVec 8) : (s.setAmplitude v).sampleOut = s.sampleOut := rfl
@[simp] theorem State.setAmplitude_sampleValid (v : BitVec 8) : (s.setAmplitude v).sampleValid = s.sampleValid := rfl
@[simp] theorem State.setAmplitude_port (v : BitVec 8) : (s.setAmplitude v).port = s.port := rfl

@[simp] theorem State.setWaveform_phaseAcc (v : Waveform) : (s.setWaveform v).phaseAcc = s.phaseAcc := rfl
@[simp] theorem State.setWaveform_phaseInc (v : Waveform) : (s.setWaveform v).phaseInc = s.phaseInc := rfl
@[simp] theorem State.setWaveform_amplitude (v : Waveform) : (s.setWaveform v).amplitude = s.amplitude := rfl
@[simp] theorem State.setWaveform_waveform (v : Waveform) : (s.setWaveform v).waveform = v := rfl
@[simp] theorem State.setWaveform_resolution (v : Waveform) : (s.setWaveform v).resolution = s.resolution := rfl
@[simp] theorem State.setWaveform_interp (v : Waveform) : (s.setWaveform v).interp = s.interp := rfl
@[simp] theorem State.setWaveform_userFn (v : Waveform) : (s.setWaveform v).userFn = s.userFn := rfl
@[simp] theorem State.setWaveform_err (v : Waveform) : (s.setWaveform v).err = s.err := rfl
@[simp] theorem State.setWaveform_sampleOut (v : Waveform) : (s.setWaveform v).sampleOut = s.sampleOut := rfl
@[simp] theorem State.setWaveform_sampleValid (v : Waveform) : (s.setWaveform v).sampleValid = s.sampleValid := rfl
@[simp] theorem State.setWaveform_port (v : Waveform) : (s.setWaveform v).port = s.port := rfl

@[simp] theorem State.setResolution_phaseAcc (v : Resolution) : (s.setResolution v).phaseAcc = s.phaseAcc := rfl
@[simp] theorem State.setResolution_phaseInc (v : Resolution) : (s.setResolution v).phaseInc = s.phaseInc := rfl
@[simp] theorem State.setResolution_amplitude (v : Resolution) : (s.setResolution v).amplitude = s.amplitude := rfl
@[simp] theorem State.setResolution_waveform (v : Resolution) : (s.setResolution v).waveform = s.waveform := rfl
@[simp] theorem State.setResolution_resolution (v : Resolution) : (s.setResolution v).resolution = v := rfl
@[simp] theorem State.setResolution_interp (v : Resolution) : (s.setResolution v).interp = s.interp := rfl
@[simp] theorem State.setResolution_userFn (v : Resolution) : (s.setResolution v).userFn = s.userFn := rfl
@[simp] theorem State.setResolution_err (v : Resolution) : (s.setResolution v).err = s.err := rfl
@[simp] theorem State.setResolution_sampleOut (v : Resolution) : (s.setResolution v).sampleOut = s.sampleOut := rfl
@[simp] theorem State.setResolution_sampleValid (v : Resolution) : (s.setResolution v).sampleValid = s.sampleValid := rfl
@[simp] theorem State.setResolution_port (v : Resolution) : (s.setResolution v).port = s.port := rfl

@[simp] theorem State.setInterp_phaseAcc (v : InterpMode) : (s.setInterp v).phaseAcc = s.phaseAcc := rfl
@[simp] theorem State.setInterp_phaseInc (v : InterpMode) : (s.setInterp v).phaseInc = s.phaseInc := rfl
@[simp] theorem State.setInterp_amplitude (v : InterpMode) : (s.setInterp v).amplitude = s.amplitude := rfl
@[simp] theorem State.setInterp_waveform (v : InterpMode) : (s.setInterp v).waveform = s.waveform := rfl
@[simp] theorem State.setInterp_resolution (v : InterpMode) : (s.setInterp v).resolution = s.resolution := rfl
@[simp] theorem State.setInterp_interp (v : InterpMode) : (s.setInterp v).interp = v := rfl
@[simp] theorem State.setInterp_userFn (v : InterpMode) : (s.setInterp v).userFn = s.userFn := rfl
@[simp] theorem State.setInterp_err (v : InterpMode) : (s.setInterp v).err = s.err := rfl
@[simp] theorem State.setInterp_sampleOut (v : InterpMode) : (s.setInterp v).sampleOut = s.sampleOut := rfl
@[simp] theorem State.setInterp_sampleValid (v : InterpMode) : (s.setInterp v).sampleValid = s.sampleValid := rfl
@[simp] theorem State.setInterp_port (v : InterpMode) : (s.setInterp v).port = s.port := rfl

@[simp] theorem State.setUserFn_phaseAcc (v : Word) : (s.setUserFn v).phaseAcc = s.phaseAcc := rfl
@[simp] theorem State.setUserFn_phaseInc (v : Word) : (s.setUserFn v).phaseInc = s.phaseInc := rfl
@[simp] theorem State.setUserFn_amplitude (v : Word) : (s.setUserFn v).amplitude = s.amplitude := rfl
@[simp] theorem State.setUserFn_waveform (v : Word) : (s.setUserFn v).waveform = s.waveform := rfl
@[simp] theorem State.setUserFn_resolution (v : Word) : (s.setUserFn v).resolution = s.resolution := rfl
@[simp] theorem State.setUserFn_interp (v : Word) : (s.setUserFn v).interp = s.interp := rfl
@[simp] theorem State.setUserFn_userFn (v : Word) : (s.setUserFn v).userFn = v := rfl
@[simp] theorem State.setUserFn_err (v : Word) : (s.setUserFn v).err = s.err := rfl
@[simp] theorem State.setUserFn_sampleOut (v : Word) : (s.setUserFn v).sampleOut = s.sampleOut := rfl
@[simp] theorem State.setUserFn_sampleValid (v : Word) : (s.setUserFn v).sampleValid = s.sampleValid := rfl
@[simp] theorem State.setUserFn_port (v : Word) : (s.setUserFn v).port = s.port := rfl

@[simp] theorem State.setErr_phaseAcc (v : BitVec 2) : (s.setErr v).phaseAcc = s.phaseAcc := rfl
@[simp] theorem State.setErr_phaseInc (v : BitVec 2) : (s.setErr v).phaseInc = s.phaseInc := rfl
@[simp] theorem State.setErr_amplitude (v : BitVec 2) : (s.setErr v).amplitude = s.amplitude := rfl
@[simp] theorem State.setErr_waveform (v : BitVec 2) : (s.setErr v).waveform = s.waveform := rfl
@[simp] theorem State.setErr_resolution (v : BitVec 2) : (s.setErr v).resolution = s.resolution := rfl
@[simp] theorem State.setErr_interp (v : BitVec 2) : (s.setErr v).interp = s.interp := rfl
@[simp] theorem State.setErr_userFn (v : BitVec 2) : (s.setErr v).userFn = s.userFn := rfl
@[simp] theorem State.setErr_err (v : BitVec 2) : (s.setErr v).err = v := rfl
@[simp] theorem State.setErr_sampleOut (v : BitVec 2) : (s.setErr v).sampleOut = s.sampleOut := rfl
@[simp] theorem State.setErr_sampleValid (v : BitVec 2) : (s.setErr v).sampleValid = s.sampleValid := rfl
@[simp] theorem State.setErr_port (v : BitVec 2) : (s.setErr v).port = s.port := rfl

@[simp] theorem State.setSampleOut_phaseAcc (v : Sample) : (s.setSampleOut v).phaseAcc = s.phaseAcc := rfl
@[simp] theorem State.setSampleOut_phaseInc (v : Sample) : (s.setSampleOut v).phaseInc = s.phaseInc := rfl
@[simp] theorem State.setSampleOut_amplitude (v : Sample) : (s.setSampleOut v).amplitude = s.amplitude := rfl
@[simp] theorem State.setSampleOut_waveform (v : Sample) : (s.setSampleOut v).waveform = s.waveform := rfl
@[simp] theorem State.setSampleOut_resolution (v : Sample) : (s.setSampleOut v).resolution = s.resolution := rfl
@[simp] theorem State.setSampleOut_interp (v : Sample) : (s.setSampleOut v).interp = s.interp := rfl
@[simp] theorem State.setSampleOut_userFn (v : Sample) : (s.setSampleOut v).userFn = s.userFn := rfl
@[simp] theorem State.setSampleOut_err (v : Sample) : (s.setSampleOut v).err = s.err := rfl
@[simp] theorem State.setSampleOut_sampleOut (v : Sample) : (s.setSampleOut v).sampleOut = v := rfl
@[simp] theorem State.setSampleOut_sampleValid (v : Sample) : (s.setSampleOut v).sampleValid = s.sampleValid := rfl
@[simp] theorem State.setSampleOut_port (v : Sample) : (s.setSampleOut v).port = s.port := rfl

@[simp] theorem State.setSampleValid_phaseAcc (v : Bool) : (s.setSampleValid v).phaseAcc = s.phaseAcc := rfl
@[simp] theorem State.setSampleValid_phaseInc (v : Bool) : (s.setSampleValid v).phaseInc = s.phaseInc := rfl
@[simp] theorem State.setSampleValid_amplitude (v : Bool) : (s.setSampleValid v).amplitude = s.amplitude := rfl
@[simp] theorem State.setSampleValid_waveform (v : Bool) : (s.setSampleValid v).waveform = s.waveform := rfl
@[simp] theorem State.setSampleValid_resolution (v : Bool) : (s.setSampleValid v).resolution = s.resolution := rfl
@[simp] theorem State.setSampleValid_interp (v : Bool) : (s.setSampleValid v).interp = s.interp := rfl
@[simp] theorem State.setSampleValid_userFn (v : Bool) : (s.setSampleValid v).userFn = s.userFn := rfl
@[simp] theorem State.setSampleValid_err (v : Bool) : (s.setSampleValid v).err = s.err := rfl
@[simp] theorem State.setSampleValid_sampleOut (v : Bool) : (s.setSampleValid v).sampleOut = s.sampleOut := rfl
@[simp] theorem State.setSampleValid_sampleValid (v : Bool) : (s.setSampleValid v).sampleValid = v := rfl
@[simp] theorem State.setSampleValid_port (v : Bool) : (s.setSampleValid v).port = s.port := rfl

@[simp] theorem State.setPort_phaseAcc (v : List EdgeInput) : (s.setPort v).phaseAcc = s.phaseAcc := rfl
@[simp] theorem State.setPort_phaseInc (v : List EdgeInput) : (s.setPort v).phaseInc = s.phaseInc := rfl
@[simp] theorem State.setPort_amplitude (v : List EdgeInput) : (s.setPort v).amplitude = s.amplitude := rfl
@[simp] theorem State.setPort_waveform (v : List EdgeInput) : (s.setPort v).waveform = s.waveform := rfl
@[simp] theorem State.setPort_resolution (v : List EdgeInput) : (s.setPort v).resolution = s.resolution := rfl
@[simp] theorem State.setPort_interp (v : List EdgeInput) : (s.setPort v).interp = s.interp := rfl
@[simp] theorem State.setPort_userFn (v : List EdgeInput) : (s.setPort v).userFn = s.userFn := rfl
@[simp] theorem State.setPort_err (v : List EdgeInput) : (s.setPort v).err = s.err := rfl
@[simp] theorem State.setPort_sampleOut (v : List EdgeInput) : (s.setPort v).sampleOut = s.sampleOut := rfl
@[simp] theorem State.setPort_sampleValid (v : List EdgeInput) : (s.setPort v).sampleValid = s.sampleValid := rfl
@[simp] theorem State.setPort_port (v : List EdgeInput) : (s.setPort v).port = v := rfl

end Sys2Proof.Machine
end

