-- ==== Sys2Proof/Laws/Ops.lean ====
section
/-! SUPPORT. One lemma per shared operation: the whole state it answers. -/

namespace Sys2Proof.Machine

/-- `raise Fault(code)` changes `err` alone (R200). -/
theorem raiseFault_eq (code : FaultCode) (s : State) :
    raiseFault code s = { s with err := s.err ||| faultBit code } := rfl

/-- `emit` changes the sample register and its strobe alone (R31, R236). -/
theorem emit_eq (v : Int) (s : State) :
    emit v s = { s with sampleOut := BitVec.ofInt 16 v, sampleValid := true } := rfl

/-- `reject` changes nothing (R202). -/
@[simp] theorem reject_eq (s : State) : reject s = s := rfl

/-- The writes of `initialize` (R100). -/
theorem initRegisters_eq (s : State) :
    initRegisters s =
      { s with
        phaseAcc := 0, phaseInc := 0, amplitude := 255, waveform := .sine, resolution := .c8_256, interp := .off,
        userFn := 0 } := rfl

/-- A zero rate records DIV0 (R200, R204). -/
theorem loadIncrement_zero (num den : Nat) (s : State) : loadIncrement 0 num den s = raiseFault .div0 s := rfl

/-- A nonzero rate loads the increment (R101, R102). -/
theorem loadIncrement_pos {rate : Word} (h : rate ≠ 0) (num den : Nat) (s : State) :
    loadIncrement rate num den s = { s with phaseInc := BitVec.ofNat 32 (roundHalfUp num den) } := if_neg h

/-- The effect of `NEXT_SAMPLE`, register by register (R150). -/
theorem nextSampleIn_eq (env : Config.Env) (s : State) :
    nextSampleIn env s =
      { s with
        phaseAcc := s.phaseAcc + s.phaseInc
        sampleOut := BitVec.ofInt 16 (sample env s (s.phaseAcc + s.phaseInc))
        sampleValid := true } := rfl

/-! ### Field by field -/

@[simp] theorem loadIncrement_phaseAcc (rate : Word) (num den : Nat) (s : State) :
    (loadIncrement rate num den s).phaseAcc = s.phaseAcc := by
  unfold loadIncrement; split <;> rfl

@[simp] theorem loadIncrement_amplitude (rate : Word) (num den : Nat) (s : State) :
    (loadIncrement rate num den s).amplitude = s.amplitude := by
  unfold loadIncrement; split <;> rfl

@[simp] theorem loadIncrement_waveform (rate : Word) (num den : Nat) (s : State) :
    (loadIncrement rate num den s).waveform = s.waveform := by
  unfold loadIncrement; split <;> rfl

@[simp] theorem loadIncrement_resolution (rate : Word) (num den : Nat) (s : State) :
    (loadIncrement rate num den s).resolution = s.resolution := by
  unfold loadIncrement; split <;> rfl

@[simp] theorem loadIncrement_interp (rate : Word) (num den : Nat) (s : State) :
    (loadIncrement rate num den s).interp = s.interp := by
  unfold loadIncrement; split <;> rfl

@[simp] theorem loadIncrement_userFn (rate : Word) (num den : Nat) (s : State) :
    (loadIncrement rate num den s).userFn = s.userFn := by
  unfold loadIncrement; split <;> rfl

@[simp] theorem loadIncrement_sampleOut (rate : Word) (num den : Nat) (s : State) :
    (loadIncrement rate num den s).sampleOut = s.sampleOut := by
  unfold loadIncrement; split <;> rfl

@[simp] theorem loadIncrement_sampleValid (rate : Word) (num den : Nat) (s : State) :
    (loadIncrement rate num den s).sampleValid = s.sampleValid := by
  unfold loadIncrement; split <;> rfl

@[simp] theorem loadIncrement_port (rate : Word) (num den : Nat) (s : State) :
    (loadIncrement rate num den s).port = s.port := by
  unfold loadIncrement; split <;> rfl

/-- The increment register after a load: kept when the rate is 0. -/
theorem loadIncrement_phaseInc (rate : Word) (num den : Nat) (s : State) :
    (loadIncrement rate num den s).phaseInc =
      if rate = 0 then s.phaseInc else BitVec.ofNat 32 (roundHalfUp num den) := by
  unfold loadIncrement; split <;> rfl

/-- The flags after a load: DIV0 joins them when the rate is 0. -/
theorem loadIncrement_err (rate : Word) (num den : Nat) (s : State) :
    (loadIncrement rate num den s).err = if rate = 0 then s.err ||| 0b01 else s.err := by
  unfold loadIncrement; split <;> rfl

@[simp] theorem raiseFault_phaseAcc (c : FaultCode) (s : State) : (raiseFault c s).phaseAcc = s.phaseAcc := rfl
@[simp] theorem raiseFault_phaseInc (c : FaultCode) (s : State) : (raiseFault c s).phaseInc = s.phaseInc := rfl
@[simp] theorem raiseFault_amplitude (c : FaultCode) (s : State) : (raiseFault c s).amplitude = s.amplitude := rfl
@[simp] theorem raiseFault_waveform (c : FaultCode) (s : State) : (raiseFault c s).waveform = s.waveform := rfl
@[simp] theorem raiseFault_resolution (c : FaultCode) (s : State) : (raiseFault c s).resolution = s.resolution := rfl
@[simp] theorem raiseFault_interp (c : FaultCode) (s : State) : (raiseFault c s).interp = s.interp := rfl
@[simp] theorem raiseFault_userFn (c : FaultCode) (s : State) : (raiseFault c s).userFn = s.userFn := rfl
@[simp] theorem raiseFault_sampleOut (c : FaultCode) (s : State) : (raiseFault c s).sampleOut = s.sampleOut := rfl
@[simp] theorem raiseFault_sampleValid (c : FaultCode) (s : State) : (raiseFault c s).sampleValid = s.sampleValid := rfl
@[simp] theorem raiseFault_port (c : FaultCode) (s : State) : (raiseFault c s).port = s.port := rfl
@[simp] theorem raiseFault_err (c : FaultCode) (s : State) : (raiseFault c s).err = s.err ||| faultBit c := rfl

@[simp] theorem initRegisters_phaseAcc (s : State) : (initRegisters s).phaseAcc = 0 := rfl
@[simp] theorem initRegisters_phaseInc (s : State) : (initRegisters s).phaseInc = 0 := rfl
@[simp] theorem initRegisters_amplitude (s : State) : (initRegisters s).amplitude = 255 := rfl
@[simp] theorem initRegisters_waveform (s : State) : (initRegisters s).waveform = .sine := rfl
@[simp] theorem initRegisters_resolution (s : State) : (initRegisters s).resolution = .c8_256 := rfl
@[simp] theorem initRegisters_interp (s : State) : (initRegisters s).interp = .off := rfl
@[simp] theorem initRegisters_userFn (s : State) : (initRegisters s).userFn = 0 := rfl
@[simp] theorem initRegisters_err (s : State) : (initRegisters s).err = s.err := rfl
@[simp] theorem initRegisters_sampleOut (s : State) : (initRegisters s).sampleOut = s.sampleOut := rfl
@[simp] theorem initRegisters_sampleValid (s : State) : (initRegisters s).sampleValid = s.sampleValid := rfl
@[simp] theorem initRegisters_port (s : State) : (initRegisters s).port = s.port := rfl

@[simp] theorem nextSampleIn_phaseAcc (env : Config.Env) (s : State) :
    (nextSampleIn env s).phaseAcc = s.phaseAcc + s.phaseInc := rfl
@[simp] theorem nextSampleIn_phaseInc (env : Config.Env) (s : State) :
    (nextSampleIn env s).phaseInc = s.phaseInc := rfl
@[simp] theorem nextSampleIn_amplitude (env : Config.Env) (s : State) :
    (nextSampleIn env s).amplitude = s.amplitude := rfl
@[simp] theorem nextSampleIn_waveform (env : Config.Env) (s : State) :
    (nextSampleIn env s).waveform = s.waveform := rfl
@[simp] theorem nextSampleIn_resolution (env : Config.Env) (s : State) :
    (nextSampleIn env s).resolution = s.resolution := rfl
@[simp] theorem nextSampleIn_interp (env : Config.Env) (s : State) :
    (nextSampleIn env s).interp = s.interp := rfl
@[simp] theorem nextSampleIn_userFn (env : Config.Env) (s : State) :
    (nextSampleIn env s).userFn = s.userFn := rfl
@[simp] theorem nextSampleIn_err (env : Config.Env) (s : State) :
    (nextSampleIn env s).err = s.err := rfl
@[simp] theorem nextSampleIn_sampleOut (env : Config.Env) (s : State) :
    (nextSampleIn env s).sampleOut = BitVec.ofInt 16 (sample env s (s.phaseAcc + s.phaseInc)) := rfl
@[simp] theorem nextSampleIn_sampleValid (env : Config.Env) (s : State) :
    (nextSampleIn env s).sampleValid = true := rfl
@[simp] theorem nextSampleIn_port (env : Config.Env) (s : State) :
    (nextSampleIn env s).port = s.port := rfl

end Sys2Proof.Machine
end

