-- ==== Sys2Proof/Laws/Sample.lean ====
section
/-! SUPPORT. `Sample(acc)` path by path, and the widths of what it reads (20_memory.md R59). -/

namespace Sys2Proof.Machine

open Config (Env Kind4)

theorem userCall_lt (env : Env) (h p : Word) : userCall env h p < 65536 := (env.userFunction h p).isLt

theorem tableRead_256_lt (env : Env) (k : Kind4) (i : Nat) : tableRead env .c8_256 k i < 256 :=
  (env.table8_256 k _).isLt

theorem tableRead_8_1024_lt (env : Env) (k : Kind4) (i : Nat) : tableRead env .c8_1024 k i < 256 :=
  (env.table8_1024 k _).isLt

theorem tableRead_16_1024_lt (env : Env) (k : Kind4) (i : Nat) : tableRead env .c16_1024 k i < 65536 :=
  (env.table16_1024 k _).isLt

/-- Every entry of a class lies in `[0, MAX]` (R155). -/
theorem tableRead_le_maxEntry (env : Env) (cls : Resolution) (k : Kind4) (i : Nat) :
    (tableRead env cls k i : Int) ≤ maxEntry cls := by
  cases cls
  · have := tableRead_256_lt env k i; simp only [maxEntry]; omega
  · have := tableRead_8_1024_lt env k i; simp only [maxEntry]; omega
  · have := tableRead_16_1024_lt env k i; simp only [maxEntry]; omega

theorem index256_lt (acc : Word) : index256 acc < 256 := (acc.extractLsb' 24 8).isLt

theorem index1024_lt (acc : Word) : index1024 acc < 1024 := (acc.extractLsb' 22 10).isLt

theorem fraction_lt (acc : Word) : fraction acc < 1024 := (acc.extractLsb' 12 10).isLt

/-- The 256-sample lookup, whatever the mode (R153, R154). -/
theorem classValue_c8_256 (env : Env) (m : InterpMode) (k : Kind4) (acc : Word) :
    classValue env .c8_256 m k acc = (tableRead env .c8_256 k (index256 acc) : Int) := rfl

/-- The 8-bit 1024-sample path (R155 to R160). -/
theorem classValue_c8_1024 (env : Env) (m : InterpMode) (k : Kind4) (acc : Word) :
    classValue env .c8_1024 m k acc =
      interpolate m 255 (entry1024 env .c8_1024 k) (index1024 acc) (fraction acc) := rfl

/-- The 16-bit 1024-sample path (R155 to R160). -/
theorem classValue_c16_1024 (env : Env) (m : InterpMode) (k : Kind4) (acc : Word) :
    classValue env .c16_1024 m k acc =
      interpolate m 65535 (entry1024 env .c16_1024 k) (index1024 acc) (fraction acc) := rfl

/-- Every entry a 1024-sample path reads lies in `[0, MAX]` (R155). -/
theorem entry1024_le_maxEntry (env : Env) (cls : Resolution) (k : Kind4) (j : Nat) :
    (entry1024 env cls k j : Int) ≤ maxEntry cls := tableRead_le_maxEntry env cls k _

/-- The 256-sample index is the phase without its low 24 bits (R153). -/
theorem index256_eq (acc : Word) : index256 acc = acc.toNat / 2 ^ 24 := by
  have := acc.isLt
  simp only [index256, BitVec.extractLsb'_toNat, Nat.shiftRight_eq_div_pow]
  omega

/-- The 1024-sample index is the phase without its low 22 bits (R156). -/
theorem index1024_eq (acc : Word) : index1024 acc = acc.toNat / 2 ^ 22 := by
  have := acc.isLt
  simp only [index1024, BitVec.extractLsb'_toNat, Nat.shiftRight_eq_div_pow]
  omega

/-- The fraction is the next 10 bits (R156). -/
theorem fraction_eq (acc : Word) : fraction acc = acc.toNat / 2 ^ 12 % 1024 := by
  simp only [fraction, BitVec.extractLsb'_toNat, Nat.shiftRight_eq_div_pow]

/-- A sample depends on the configuration registers alone, besides the phase it is given (R36, R150). -/
theorem sample_congr (env : Env) {s t : State} (acc : Word) (hw : s.waveform = t.waveform)
    (hf : s.userFn = t.userFn) (ha : s.amplitude = t.amplitude) (hr : s.resolution = t.resolution)
    (hm : s.interp = t.interp) : sample env s acc = sample env t acc := by
  simp only [sample, hw, hf, ha, hr, hm]

/-- The user path (R151). -/
theorem sample_user (env : Env) {s : State} (hw : s.waveform = .user) (hf : s.userFn ≠ 0) (acc : Word) :
    sample env s acc = scale s.amplitude (userCall env s.userFn acc) := if_pos ⟨hw, hf⟩

/-- The user kind with no function (R152). -/
theorem sample_user_none (env : Env) {s : State} (hw : s.waveform = .user) (hf : s.userFn = 0) (acc : Word) :
    sample env s acc = 0 := by
  simp [sample, hw, hf, tableKind]

/-- The table paths (R152 to R163). -/
theorem sample_table (env : Env) {s : State} {kind : Kind4} (hk : tableKind s.waveform = some kind) (acc : Word) :
    sample env s acc = scale s.amplitude (classValue env s.resolution s.interp kind acc) := by
  have hw : s.waveform ≠ .user := by intro h; simp [h, tableKind] at hk
  simp [sample, hw, hk]

/-- A waveform other than USER has a table. -/
theorem tableKind_isSome {w : Waveform} (h : w ≠ .user) : ∃ kind, tableKind w = some kind := by
  cases w
  case user => exact absurd rfl h
  all_goals exact ⟨_, rfl⟩

end Sys2Proof.Machine
end

