-- ==== Sys2Proof/Laws/Exec.lean ====
section
/-! SUPPORT. What a command can do, said once: the state it answers, over the shared operations. -/

namespace Sys2Proof.Machine

/-- The state in which a command leaves the block. -/
def effectOf (i : Instr) (s : State) : State :=
  match i with
  | .init => initRegisters s
  | .setFreq f r => loadIncrement r (f.toNat * 2 ^ 16) r.toNat s
  | .setNote n r => loadIncrement r (n.toNat * 2 ^ 32) (100 * r.toNat) s
  | .setAmpRaw v => s.setAmplitude v
  | .setAmpPct p => s.setAmplitude (amplitudeOfPercent p)
  | .setWave sel =>
    match waveformOfSel sel with
    | some w => s.setWaveform w
    | none => s
  | .setRes sel =>
    match resolutionOfSel sel with
    | some r => (s.setResolution r).setPhaseAcc 0
    | none => s
  | .setInterp sel =>
    match interpOfSel sel with
    | some m => s.setInterp m
    | none => s
  | .setUserWave h => (s.setUserFn h).setWaveform .user
  | .clearUserWave => (s.setUserFn 0).setWaveform .sine
  | .setUserInc inc => s.setPhaseInc inc
  | .silence => (s.setPhaseAcc 0).setPhaseInc 0
  | .nextSample => nextSampleIn Config.env s
  | .reservedD => raiseFault .illegal s
  | .reservedE => raiseFault .illegal s
  | .reservedF => raiseFault .illegal s

/-- Every command answers its effect: none faults, none is refused. -/
theorem exec_eq (i : Instr) (s : State) : exec i s = .next (effectOf i s) := by
  cases i
  case setWave sel => simp only [exec, execSetWave, effectOf]; cases waveformOfSel sel <;> rfl
  case setRes sel => simp only [exec, execSetRes, effectOf]; cases resolutionOfSel sel <;> rfl
  case setInterp sel => simp only [exec, execSetInterp, effectOf]; cases interpOfSel sel <;> rfl
  all_goals rfl

/-- A selector above 4 names no waveform (R86). -/
theorem waveformOfSel_eq_none {sel : Word} (h : 4 < sel.toNat) : waveformOfSel sel = none := by
  unfold waveformOfSel; split <;> first | omega | rfl

/-- A selector above 2 names no class (R86). -/
theorem resolutionOfSel_eq_none {sel : Word} (h : 2 < sel.toNat) : resolutionOfSel sel = none := by
  unfold resolutionOfSel; split <;> first | omega | rfl

/-- A selector above 2 names no mode (R86). -/
theorem interpOfSel_eq_none {sel : Word} (h : 2 < sel.toNat) : interpOfSel sel = none := by
  unfold interpOfSel; split <;> first | omega | rfl

end Sys2Proof.Machine
end

