-- ==== Sys2Proof/Laws/Decode.lean ====
section
/-! SUPPORT. The fields of an assembled word (30_encoding.md R81), the bits R85 ignores, and the
two's-complement reading of R13. -/

namespace Sys2Proof

theorem getLsbD_mkWord (op : BitVec 4) (a1 a0 : Word) (k : Nat) :
    (mkWord op a1 a0).getLsbD k =
      if k < 32 then a0.getLsbD k else if k < 64 then a1.getLsbD (k - 32) else op.getLsbD (k - 64) := by
  unfold mkWord
  simp only [BitVec.getLsbD_append]
  by_cases h : k < 32
  · simp [h]
  · by_cases h' : k < 64
    · have : k - 32 < 32 := by omega
      simp [h, h', this]
    · have : ¬ k - 32 < 32 := by omega
      have e : k - 32 - 32 = k - 64 := by omega
      simp [h, h', this, e]

@[simp] theorem opField_mkWord (op : BitVec 4) (a1 a0 : Word) : opField (mkWord op a1 a0) = op := by
  apply BitVec.eq_of_getLsbD_eq
  intro k hk
  simp only [opField, BitVec.getLsbD_extractLsb', getLsbD_mkWord]
  have h1 : ¬ 64 + k < 32 := by omega
  have h2 : ¬ 64 + k < 64 := by omega
  simp [h1, hk]

@[simp] theorem arg1Field_mkWord (op : BitVec 4) (a1 a0 : Word) : arg1Field (mkWord op a1 a0) = a1 := by
  apply BitVec.eq_of_getLsbD_eq
  intro k hk
  simp only [arg1Field, BitVec.getLsbD_extractLsb', getLsbD_mkWord]
  have h1 : ¬ 32 + k < 32 := by omega
  have h2 : 32 + k < 64 := by omega
  simp [h2, hk]

@[simp] theorem arg0Field_mkWord (op : BitVec 4) (a1 a0 : Word) : arg0Field (mkWord op a1 a0) = a0 := by
  apply BitVec.eq_of_getLsbD_eq
  intro k hk
  simp [arg0Field, getLsbD_mkWord, hk]

/-- A word is its three fields. -/
theorem mkWord_fields (w : CommandWord) : mkWord (opField w) (arg1Field w) (arg0Field w) = w := by
  apply BitVec.eq_of_getLsbD_eq
  intro k hk
  simp only [getLsbD_mkWord, opField, arg1Field, arg0Field, BitVec.getLsbD_extractLsb']
  by_cases h : k < 32
  · simp [h]
  · by_cases h' : k < 64
    · have : k - 32 < 32 := by omega
      have e : 32 + (k - 32) = k := by omega
      simp [h, h', this, e]
    · have : k - 64 < 4 := by omega
      have e : 64 + (k - 64) = k := by omega
      simp [h, h', this, e]

/-- The sixteen opcodes (R84). -/
theorem opcode_cases : ∀ op : BitVec 4,
    op = 0 ∨ op = 1 ∨ op = 2 ∨ op = 3 ∨ op = 4 ∨ op = 5 ∨ op = 6 ∨ op = 7 ∨ op = 8 ∨ op = 9 ∨ op = 10 ∨ op = 11 ∨
      op = 12 ∨ op = 13 ∨ op = 14 ∨ op = 15 := by
  decide

/-- Masking a word masks its fields. -/
theorem mkWord_and (op op' : BitVec 4) (a1 a1' a0 a0' : Word) :
    mkWord op a1 a0 &&& mkWord op' a1' a0' = mkWord (op &&& op') (a1 &&& a1') (a0 &&& a0') := by
  apply BitVec.eq_of_getLsbD_eq
  intro k hk
  simp only [BitVec.getLsbD_and, getLsbD_mkWord]
  split
  · rfl
  · split <;> rfl

/-- Complementing a word complements its fields. -/
theorem mkWord_not (op : BitVec 4) (a1 a0 : Word) : ~~~mkWord op a1 a0 = mkWord (~~~op) (~~~a1) (~~~a0) := by
  apply BitVec.eq_of_getLsbD_eq
  intro k hk
  simp only [BitVec.getLsbD_not, getLsbD_mkWord]
  by_cases h : k < 32
  · simp [h, hk]
  · by_cases h' : k < 64
    · have : k - 32 < 32 := by omega
      simp [h, h', this, hk]
    · have : k - 64 < 4 := by omega
      simp [h, h', this, hk]

theorem mkWord_zero : mkWord 0 0 0 = 0 := by decide

/-- A format AB word uses every bit. -/
theorem and_unused_two (op : BitVec 4) (a1 a0 : Word) :
    mkWord op a1 a0 &&& ~~~mkWord 0xF 0xFFFFFFFF 0xFFFFFFFF = 0 := by
  rw [show (~~~mkWord 0xF 0xFFFFFFFF 0xFFFFFFFF) = 0#68 by decide]
  exact BitVec.and_zero

/-- A format A word leaves `arg1` 0. -/
theorem and_unused_one (op : BitVec 4) (a0 : Word) : mkWord op 0 a0 &&& ~~~mkWord 0xF 0 0xFFFFFFFF = 0 := by
  rw [mkWord_not, mkWord_and, ← mkWord_zero]
  congr 1 <;> simp

/-- The word of `SET_AMP_RAW` leaves `arg0[31:8]` 0. -/
theorem and_unused_raw (op : BitVec 4) (v : BitVec 8) :
    mkWord op 0 (v.setWidth 32) &&& ~~~mkWord 0xF 0 0xFF = 0 := by
  have low : ∀ j : Fin 8, (0xFF#32).getLsbD j.val = true := by decide
  have h : v.setWidth 32 &&& ~~~(0xFF#32) = 0 := by
    apply BitVec.eq_of_getLsbD_eq
    intro k hk
    by_cases hk8 : k < 8
    · simp only [BitVec.getLsbD_and, BitVec.getLsbD_not, low ⟨k, hk8⟩]
      simp
    · simp only [BitVec.getLsbD_and, BitVec.getLsbD_setWidth, BitVec.getLsbD_of_ge v k (by omega)]
      simp
  rw [mkWord_not, mkWord_and, ← mkWord_zero, show (~~~(0xFF : Word)) = ~~~(0xFF#32) from rfl, h]
  simp

/-- The operand of `SET_AMP_RAW`, assembled and read back. -/
@[simp] theorem rawAmpField_setWidth (v : BitVec 8) : rawAmpField (v.setWidth 32) = v := by
  apply BitVec.eq_of_getLsbD_eq
  intro k hk
  have : k < 32 := by omega
  simp [rawAmpField, hk, this]

/-- An integer that 32 bits in two's complement can hold is the reading of its pattern. -/
theorem asSigned32_ofSigned32 {v : Int} (lo : -2 ^ 31 ≤ v) (hi : v < 2 ^ 31) : asSigned32 (ofSigned32 v) = v :=
  BitVec.toInt_ofInt_eq_self (by decide) (by simpa using lo) (by simpa using hi)

/-- A pattern is the pattern of its two's-complement reading. -/
@[simp] theorem ofSigned32_asSigned32 (w : Word) : ofSigned32 (asSigned32 w) = w := BitVec.ofInt_toInt

/-- The two's-complement reading of 32 bits is in range. -/
theorem asSigned32_range (w : Word) : -2 ^ 31 ≤ asSigned32 w ∧ asSigned32 w < 2 ^ 31 :=
  ⟨by simpa [asSigned32] using BitVec.le_toInt w, by simpa [asSigned32] using BitVec.toInt_lt (x := w)⟩

/-- A word is the only reading `commandWordOfBits` gives: it holds the low `nbits` bits. -/
theorem commandWordOfBits_ok {nbits w : Nat} {cmd : CommandWord} (h : commandWordOfBits nbits w = .ok cmd) :
    cmd.toNat = w % 2 ^ nbits := by
  unfold commandWordOfBits at h
  split at h
  · cases h
    exact Nat.mod_eq_of_lt ‹_›
  · cases h

end Sys2Proof
end

