-- ==== Sys2Proof/Laws/PerInstr.lean ====
section
/-! SUPPORT. Statements for every command, one lemma per constructor. The family `OpcodeField` says of a
command that its word carries its opcode in bits 67:64 (30_encoding.md R81, R84) and only 0 in the bits
that R85 ignores. -/

namespace Sys2Proof.Laws.OpcodeField

/-- The word of `i` has `i`'s opcode, and its ignored bits are 0 (R84, R87). -/
def Statement (i : Instr) : Prop :=
  opField (encode i) = opcodeOf i ∧ encode i &&& ~~~usedBits (opcodeOf i) = 0

theorem init : Statement .init := ⟨by decide, by decide⟩
theorem setFreq (freqQ16 rate : Word) : Statement (.setFreq freqQ16 rate) := ⟨opField_mkWord _ _ _, and_unused_two _ _ _⟩
theorem setNote (note rate : Word) : Statement (.setNote note rate) := ⟨opField_mkWord _ _ _, and_unused_two _ _ _⟩
theorem setAmpRaw (value : BitVec 8) : Statement (.setAmpRaw value) := ⟨opField_mkWord _ _ _, and_unused_raw _ _⟩
theorem setAmpPct (percent : Int) : Statement (.setAmpPct percent) := ⟨opField_mkWord _ _ _, and_unused_one _ _⟩
theorem setWave (sel : Word) : Statement (.setWave sel) := ⟨opField_mkWord _ _ _, and_unused_one _ _⟩
theorem setRes (sel : Word) : Statement (.setRes sel) := ⟨opField_mkWord _ _ _, and_unused_one _ _⟩
theorem setInterp (sel : Word) : Statement (.setInterp sel) := ⟨opField_mkWord _ _ _, and_unused_one _ _⟩
theorem setUserWave (handle : Word) : Statement (.setUserWave handle) := ⟨opField_mkWord _ _ _, and_unused_one _ _⟩
theorem clearUserWave : Statement .clearUserWave := ⟨by decide, by decide⟩
theorem setUserInc (inc : Word) : Statement (.setUserInc inc) := ⟨opField_mkWord _ _ _, and_unused_one _ _⟩
theorem silence : Statement .silence := ⟨by decide, by decide⟩
theorem nextSample : Statement .nextSample := ⟨by decide, by decide⟩
theorem reservedD : Statement .reservedD := ⟨by decide, by decide⟩
theorem reservedE : Statement .reservedE := ⟨by decide, by decide⟩
theorem reservedF : Statement .reservedF := ⟨by decide, by decide⟩

end Sys2Proof.Laws.OpcodeField
end

