-- ==== Sys2Proof/Machine/Platform.lean ====
section
/-! DEFINITION. Several instances (00_scope.md R12, 60_exceptions.md R212) and several producers that
share one (20_memory.md R63). -/

namespace Sys2Proof.Machine

/-- The instances of a platform, each with its own state and its own command port (R12). -/
abbrev Platform := List State

/-- Every instance runs from its own reset (R212). -/
def platformReset : Platform := List.replicate Config.nInstances State.reset

/-- The state after one edge; a state that could not step would stay (none does, log 5). -/
def stepState (s : State) : State :=
  match step s with
  | .next t => t
  | .fault _ => s
  | .refused _ => s

/-- An edge at instance `k`. -/
def stepInstance (k : Nat) (p : Platform) : Platform := p.modify k stepState

/-- `Merged a b m`: the stream `m` is one of the merges of the streams that two producers issue, each in
its own order (R63). The platform chooses which. -/
inductive Merged {α : Type} : List α → List α → List α → Prop where
  | done : Merged [] [] []
  | left {a b m : List α} (x : α) : Merged a b m → Merged (x :: a) b (x :: m)
  | right {a b m : List α} (x : α) : Merged a b m → Merged a (x :: b) (x :: m)

end Sys2Proof.Machine
end

