-- ==== Sys2Proof/Safety.lean ====
section
/-! DEFINITION. The terms claims use: the registers by name and which commands may write them
(10_state.md R36), faulted states (60_exceptions.md R201), and runs with what is observed of them
(70_reset_and_hazards.md R240). -/

namespace Sys2Proof.Safety

open Sys2Proof.Machine

/-! ### Registers by name -/

/-- The registers of R35. -/
inductive Reg where
  | phaseAcc | phaseInc | amplitude | waveform | resolution | interp | userFn | err | sampleOut
  deriving DecidableEq, Repr

/-- The value a register holds, as its status output shows it (R32). -/
def readReg (s : State) : Reg → Nat
  | .phaseAcc => s.phaseAcc.toNat
  | .phaseInc => s.phaseInc.toNat
  | .amplitude => s.amplitude.toNat
  | .waveform => (waveformBits s.waveform).toNat
  | .resolution => (resolutionBits s.resolution).toNat
  | .interp => (interpBits s.interp).toNat
  | .userFn => s.userFn.toNat
  | .err => s.err.toNat
  | .sampleOut => s.sampleOut.toNat

/-- The access matrix (R36): the registers a command writes always (W) or when it accepts or succeeds (w);
every other register it does not write. -/
def mayWrite : Instr → List Reg
  | .init => [.phaseAcc, .phaseInc, .amplitude, .waveform, .resolution, .interp, .userFn]
  | .setFreq _ _ => [.phaseInc, .err]
  | .setNote _ _ => [.phaseInc, .err]
  | .setAmpRaw _ => [.amplitude]
  | .setAmpPct _ => [.amplitude]
  | .setWave _ => [.waveform]
  | .setRes _ => [.phaseAcc, .resolution]
  | .setInterp _ => [.interp]
  | .setUserWave _ => [.waveform, .userFn]
  | .clearUserWave => [.waveform, .userFn]
  | .setUserInc _ => [.phaseInc]
  | .silence => [.phaseAcc, .phaseInc]
  | .nextSample => [.phaseAcc, .sampleOut]
  | .reservedD => [.err]
  | .reservedE => [.err]
  | .reservedF => [.err]

/-! ### Faults -/

/-- A state with `err` not 0 is faulted (R201). -/
def faulted (s : State) : Bool := decide (s.err ≠ 0)

/-- The fault a command raises, if any (R200): it depends on the command alone. -/
def raises : Instr → Option FaultCode
  | .setFreq _ rate => if rate = 0 then some .div0 else none
  | .setNote _ rate => if rate = 0 then some .div0 else none
  | .reservedD => some .illegal
  | .reservedE => some .illegal
  | .reservedF => some .illegal
  | .init => none
  | .setAmpRaw _ => none
  | .setAmpPct _ => none
  | .setWave _ => none
  | .setRes _ => none
  | .setInterp _ => none
  | .setUserWave _ => none
  | .clearUserWave => none
  | .setUserInc _ => none
  | .silence => none
  | .nextSample => none

/-- The bits of `err` a command sets (R200). -/
def raisedBits (i : Instr) : BitVec 2 :=
  match raises i with
  | some code => faultBit code
  | none => 0

/-! ### Legal register values -/

/-- The legal values of R35: the enumerated registers hold a value of their table (R33), and `sample_out`
at most 65279, the largest value a command can emit (R31). The other registers hold any value of their width. -/
def legalValues (s : State) : Prop :=
  readReg s .waveform ≤ 4 ∧ readReg s .resolution ≤ 2 ∧ readReg s .interp ≤ 2 ∧ readReg s .sampleOut ≤ 65279

/-! ### The frozen sample -/

/-- The value R167 gives for a `NEXT_SAMPLE` that reads phase 0, row by row of its table. -/
def frozenValue (env : Config.Env) (s : State) : Int :=
  match tableKind s.waveform with
  | none => if s.userFn = 0 then 0 else scale s.amplitude (env.userFunction s.userFn 0).toNat
  | some kind =>
    match s.resolution, s.interp with
    | .c8_256, _ => scale s.amplitude (env.table8_256 kind 0).toNat
    | .c8_1024, .quadratic => scale s.amplitude (env.table8_1024 kind 1).toNat
    | .c8_1024, _ => scale s.amplitude (env.table8_1024 kind 0).toNat
    | .c16_1024, .quadratic => scale s.amplitude (env.table16_1024 kind 1).toNat
    | .c16_1024, _ => scale s.amplitude (env.table16_1024 kind 0).toNat

/-! ### Runs -/

/-- A state in which the host has yet to issue the commands `ws`, one per edge, and nothing more. -/
def schedule (ws : List CommandWord) (s : State) : State := s.setPort (ws.map commandEdge)

/-- What is observed of a run (R240): the samples its `NEXT_SAMPLE` commands emit, in order, and the
state after the last command. -/
structure Run where
  samples : List Sample
  final   : State
  deriving DecidableEq, Repr

/-- The next `n` edges: the sample of each edge after which `sample_valid` is 1 (R236), and the state at the end. -/
def runEdges : Nat → State → Run
  | 0, s => ⟨[], s⟩
  | n + 1, s =>
    match step s with
    | .next t =>
      let r := runEdges n t
      ⟨if t.sampleValid then t.sampleOut :: r.samples else r.samples, r.final⟩
    | .fault _ => ⟨[], s⟩
    | .refused _ => ⟨[], s⟩

/-- The run of the commands `ws` from a state, one edge each. -/
def runFrom (ws : List CommandWord) (s : State) : Run := runEdges ws.length (schedule ws s)

/-- The run of the commands `ws` after reset (R240). -/
def observe (ws : List CommandWord) : Run := runFrom ws State.reset

/-- A run is good when `err = 0` after its last command (R240). -/
def good (ws : List CommandWord) : Bool := !faulted (observe ws).final

end Sys2Proof.Safety
end

