-- ==== Sys2Proof/Laws/Step.lean ====
section
/-! SUPPORT. What an edge asks and does (70_reset_and_hazards.md R230, R235). -/

namespace Sys2Proof.Machine

@[simp] theorem eventOf_commandEdge (w : CommandWord) : eventOf (commandEdge w) = .command (decode w) := rfl

@[simp] theorem eventOf_resetEdge (v : Bool) (w : CommandWord) : eventOf (resetEdge v w) = .reset := rfl

@[simp] theorem eventOf_idleEdge : eventOf idleEdge = .idle := rfl

/-- An edge uses up the head of the port and lowers the strobe; no register changes (R235). -/
theorem passEdge_eq (s : State) : passEdge s = { s with port := s.port.tail, sampleValid := false } := rfl

/-- The reset input leaves the reset state, whatever was there before, but for the host's schedule (R230). -/
theorem resetRegisters_eq (s : State) : resetRegisters s = { State.reset with port := s.port } := rfl

/-- In the cycle that accepts a `NEXT_SAMPLE` the collaborators see the phase it advances to (R150, R234). -/
theorem sampledPhase_nextSample {s : State} (h : nextEvent s = .command .nextSample) :
    sampledPhase s = some (s.phaseAcc + s.phaseInc) := by
  simp [sampledPhase, h]

/-- A step is one of three things: the reset input, nothing, or a command. -/
theorem step_eq_of_event (s : State) :
    (nextEvent s = .reset ∧ step s = .next (resetRegisters (passEdge s))) ∨
    (nextEvent s = .idle ∧ step s = .next (passEdge s)) ∨
    (∃ i, nextEvent s = .command i ∧ step s = exec i (passEdge s)) := by
  rcases h : nextEvent s with _ | _ | i
  · exact .inl ⟨rfl, by simp [step, h]⟩
  · exact .inr (.inl ⟨rfl, by simp [step, h]⟩)
  · exact .inr (.inr ⟨i, rfl, by simp [step, h]⟩)

end Sys2Proof.Machine
end

