-- ==== Sys2Proof/Certificates/Slice0/Obligations.lean ====
section
/-! DEFINITION. The statements for the provers. Each says a rule of spec/, or what follows from rules, of
the model; the arithmetic is written out, not quoted from the model, wherever the rule writes it out. -/

open Sys2Proof Sys2Proof.Machine Sys2Proof.Safety

/-! ## Encoding -/

/-- R83, R84: `op` alone selects the command, and each operand is assembled from its own bits of
`{op, arg1, arg0}`. -/
def Obligations.OpcodeMapAndOperandAssembly : Prop :=
  ∀ a1 a0 : Word,
    decode (0x0#4 ++ a1 ++ a0) = .init ∧
    decode (0x1#4 ++ a1 ++ a0) = .setFreq a0 a1 ∧
    decode (0x2#4 ++ a1 ++ a0) = .setNote a0 a1 ∧
    decode (0x3#4 ++ a1 ++ a0) = .setAmpRaw (BitVec.ofNat 8 (a0.toNat % 256)) ∧
    decode (0x4#4 ++ a1 ++ a0) =
      .setAmpPct (if a0.toNat < 2 ^ 31 then (a0.toNat : Int) else (a0.toNat : Int) - 2 ^ 32) ∧
    decode (0x5#4 ++ a1 ++ a0) = .setWave a0 ∧
    decode (0x6#4 ++ a1 ++ a0) = .setRes a0 ∧
    decode (0x7#4 ++ a1 ++ a0) = .setInterp a0 ∧
    decode (0x8#4 ++ a1 ++ a0) = .setUserWave a0 ∧
    decode (0x9#4 ++ a1 ++ a0) = .clearUserWave ∧
    decode (0xA#4 ++ a1 ++ a0) = .setUserInc a0 ∧
    decode (0xB#4 ++ a1 ++ a0) = .silence ∧
    decode (0xC#4 ++ a1 ++ a0) = .nextSample ∧
    decode (0xD#4 ++ a1 ++ a0) = .reservedD ∧
    decode (0xE#4 ++ a1 ++ a0) = .reservedE ∧
    decode (0xF#4 ++ a1 ++ a0) = .reservedF

/-- Words written out from the encodings (95_test_vectors.md V-ENC) decode to what they stand for. -/
def Obligations.SpecWordsDecode : Prop :=
  decode 0x10000BB8001B80000 = .setFreq 0x01B80000 48000 ∧
  decode 0x20000BB800000ABE0 = .setNote 44000 48000 ∧
  decode 0x300000000000001FF = .setAmpRaw 0xFF ∧
  decode 0x400000000FFFFFFFF = .setAmpPct (-1) ∧
  decode 0x50000000000000003 = .setWave 3 ∧
  decode 0x6DEADBEEF00000002 = .setRes 2 ∧
  decode 0xA00000000FFE00000 = .setUserInc 0xFFE00000 ∧
  decode 0xCDEADBEEF12345678 = .nextSample ∧
  decode 0xFFFFFFFFFFFFFFFFF = .reservedF

/-- R80, R81: a bit pattern is a command word exactly when no bit above bit 67 is set, and it then
decodes; every other is refused by name. -/
def Obligations.OnlyLongerPatternsAreRefused : Prop :=
  ∀ nbits w : Nat,
    (w % 2 ^ nbits < 2 ^ 68 →
      decodeBits nbits w = .ok (decode (BitVec.ofNat 68 (w % 2 ^ nbits))) ∧
      decodeTableWord nbits w = some (decode (BitVec.ofNat 68 (w % 2 ^ nbits)))) ∧
    (2 ^ 68 ≤ w % 2 ^ nbits →
      decodeBits nbits w = .error .longerThan68Bits ∧ decodeTableWord nbits w = none)

/-- The decoder reads back every command from its word. -/
def Obligations.DecodeReadsBackEveryCommand : Prop :=
  ∀ i : Instr, i.wellFormed = true → decode (encode i) = i

/-- The encoder gives back every word, its ignored bits cleared; and what is decoded is well formed. -/
def Obligations.EncodeGivesBackUsedBits : Prop :=
  ∀ w : CommandWord, (decode w).wellFormed = true ∧ encode (decode w) = w &&& usedBits (opField w)

/-- R85: two words that differ only in bits R83 does not name as operand bits do the same thing. -/
def Obligations.IgnoredBitsNeverMatter : Prop :=
  ∀ w v : CommandWord,
    opField w = opField v →
    (opField w = 1 ∨ opField w = 2 → arg1Field w = arg1Field v) →
    (opField w = 3 → (arg0Field w).toNat % 256 = (arg0Field v).toNat % 256) →
    (opField w ∈ [1, 2, 4, 5, 6, 7, 8, 10] → arg0Field w = arg0Field v) →
    ∀ s : State, exec (decode w) s = exec (decode v) s

/-- Eight fixed texts: four pseudo-commands of R88 and the words of their expansions, and a name, a comment,
a negative percent, a raw opcode and an operand too wide for its field (R87). -/
def Obligations.AssemblerTextForms : Prop :=
  (assemble "MUTE" = assemble "SET_AMP_RAW 0" ∧ assemble "MUTE" = some [0x30000000000000000]) ∧
  (assemble "UNITY" = assemble "SET_AMP_RAW 255" ∧ assemble "UNITY" = some [0x300000000000000FF]) ∧
  assemble "SET_FREQ_HZ 440, 48000" = some [0x10000BB8001B80000] ∧
  (assemble "TICK 3" = assemble "NEXT_SAMPLE\nNEXT_SAMPLE\nNEXT_SAMPLE" ∧
    assemble "TICK 3" = some [0xC0000000000000000, 0xC0000000000000000, 0xC0000000000000000]) ∧
  assemble "SET_WAVE sawtooth ; kind 3" = some [0x50000000000000003] ∧
  assemble "SET_AMP_PCT -1" = some [0x400000000FFFFFFFF] ∧
  assemble ".cmd 0xD" = some [0xD0000000000000000] ∧
  assemble "SET_AMP_RAW 0x1FF" = none

/-- R88, every row of its table, for every text that reads as the operand (R87) and with its condition: the
pseudo-command and its expansion assemble to the same words, which are given; and a number reads back from
its decimal text and from its hex text. Where blanks may stand is the model's choice (log 11). -/
def Obligations.PseudoCommandsExpand : Prop :=
  (∀ n : Nat, number (Nat.toDigits 10 n) = some n ∧ number ('0' :: 'x' :: Nat.toDigits 16 n) = some n) ∧
  (∀ (ft gt rt : String) (f r : Nat),
    number ft.toList = some f → number gt.toList = some (f * 65536) → number rt.toList = some r → r < 2 ^ 32 →
    (f ≤ 65535 →
      assemble ("SET_FREQ_HZ " ++ ft ++ ", " ++ rt) = some [0x1#4 ++ BitVec.ofNat 32 r ++ BitVec.ofNat 32 (f * 65536)] ∧
      assemble ("SET_FREQ " ++ gt ++ ", " ++ rt) = some [0x1#4 ++ BitVec.ofNat 32 r ++ BitVec.ofNat 32 (f * 65536)]) ∧
    (65535 < f → assemble ("SET_FREQ_HZ " ++ ft ++ ", " ++ rt) = none)) ∧
  assemble "MUTE" = some [0x30000000000000000] ∧ assemble "SET_AMP_RAW 0" = some [0x30000000000000000] ∧
  assemble "UNITY" = some [0x300000000000000FF] ∧ assemble "SET_AMP_RAW 255" = some [0x300000000000000FF] ∧
  (∀ (nt : String) (n : Nat), number nt.toList = some n →
    (1 ≤ n →
      assemble ("TICK " ++ nt) = some (List.replicate n 0xC0000000000000000) ∧
      assemble ("\n".intercalate (List.replicate n "NEXT_SAMPLE")) =
        some (List.replicate n 0xC0000000000000000)) ∧
    (n = 0 → assemble ("TICK " ++ nt) = none))

/-! ## The configuration commands -/

/-- R100, with its corner case: a second `INIT` changes nothing more. -/
def Obligations.InitWritesInitialValues : Prop :=
  ∀ s : State,
    let t : State :=
      { s with
        phaseAcc := 0, phaseInc := 0, amplitude := 255, waveform := .sine, resolution := .c8_256, interp := .off,
        userFn := 0 }
    exec .init s = .next t ∧ exec .init t = .next t

/-- R101: the exact quotient rounded to nearest, ties up, modulo 2^32; rate 0 sets DIV0 and writes
nothing else; and the rule's corner cases. -/
def Obligations.SetFreqLoadsRoundedIncrement : Prop :=
  ∀ (f r : Word) (s : State),
    (r = 0 → exec (.setFreq f r) s = .next { s with err := s.err ||| 0b01 }) ∧
    (r ≠ 0 →
      exec (.setFreq f r) s =
        .next
          { s with
            phaseInc := BitVec.ofNat 32 ((2 * (f.toNat * 2 ^ 16) + r.toNat) / (2 * r.toNat) % 2 ^ 32) }) ∧
    (r ≠ 0 → exec (.setFreq 0 r) s = .next { s with phaseInc := 0 }) ∧
    (r ≠ 0 → f.toNat = r.toNat * 2 ^ 16 → exec (.setFreq f r) s = .next { s with phaseInc := 0 }) ∧
    exec (.setFreq 0xFFFFFFFF 1) s = .next { s with phaseInc := 0xFFFF0000 } ∧
    exec (.setFreq 1 131072) s = .next { s with phaseInc := 1 } ∧
    exec (.setFreq 0x01B80000 48000) s = .next { s with phaseInc := 0x0258BF26 }

/-- R102: the exact rounding of `note / 100` Hz; rate 0 sets DIV0; and the rule's corner cases, among
them the agreement with `SET_FREQ` where `note / 100` is a Q16.16 number. -/
def Obligations.SetNoteLoadsRoundedIncrement : Prop :=
  ∀ (note r : Word) (s : State),
    (r = 0 → exec (.setNote note r) s = .next { s with err := s.err ||| 0b01 }) ∧
    (r ≠ 0 →
      exec (.setNote note r) s =
        .next
          { s with
            phaseInc :=
              BitVec.ofNat 32
                ((2 * (note.toNat * 2 ^ 32) + 100 * r.toNat) / (2 * (100 * r.toNat)) % 2 ^ 32) }) ∧
    (r ≠ 0 → exec (.setNote 0 r) s = .next { s with phaseInc := 0 }) ∧
    (r ≠ 0 → note.toNat = 100 * r.toNat → exec (.setNote note r) s = .next { s with phaseInc := 0 }) ∧
    (∀ f : Word, 100 * f.toNat = note.toNat * 2 ^ 16 → exec (.setNote note r) s = exec (.setFreq f r) s) ∧
    exec (.setNote 44000 48000) s = .next { s with phaseInc := 0x0258BF26 }

/-- R101's aliasing: frequencies a whole sample rate apart have one increment. -/
def Obligations.FrequencyIsModuloSampleRate : Prop :=
  ∀ (f g r : Word) (k : Nat) (s : State),
    r ≠ 0 → g.toNat = f.toNat + k * (r.toNat * 2 ^ 16) → exec (.setFreq g r) s = exec (.setFreq f r) s

/-- R103: `arg0[7:0]` becomes the amplitude, whatever stands in the other bits; amplitude 0 scales every
value to 0. -/
def Obligations.SetAmpRawStoresLowByte : Prop :=
  (∀ (v : BitVec 8) (s : State), exec (.setAmpRaw v) s = .next { s with amplitude := v }) ∧
  (∀ (a1 a0 : Word) (s : State),
    exec (decode (0x3#4 ++ a1 ++ a0)) s = .next { s with amplitude := BitVec.ofNat 8 (a0.toNat % 256) }) ∧
  (∀ v : Int, scale 0 v = 0)

/-- R104: the clamp and the exact rounding, the ties, the order and the idempotence. -/
def Obligations.SetAmpPctClampsAndRounds : Prop :=
  ∀ (p q : Int) (s : State),
    exec (.setAmpPct p) s =
      .next { s with amplitude := BitVec.ofInt 8 ((2 * (255 * max 0 (min p 100)) + 100) / 200) } ∧
    (p < 0 → exec (.setAmpPct p) s = .next { s with amplitude := 0 }) ∧
    (100 < p → exec (.setAmpPct p) s = .next { s with amplitude := 255 }) ∧
    exec (.setAmpPct 10) s = .next { s with amplitude := 26 } ∧
    exec (.setAmpPct 30) s = .next { s with amplitude := 77 } ∧
    exec (.setAmpPct 50) s = .next { s with amplitude := 128 } ∧
    exec (.setAmpPct 70) s = .next { s with amplitude := 179 } ∧
    exec (.setAmpPct 90) s = .next { s with amplitude := 230 } ∧
    (p ≤ q →
      ∃ a b : BitVec 8,
        exec (.setAmpPct p) s = .next { s with amplitude := a } ∧
        exec (.setAmpPct q) s = .next { s with amplitude := b } ∧ a.toNat ≤ b.toNat) ∧
    (∃ t, exec (.setAmpPct p) s = .next t ∧ exec (.setAmpPct p) t = .next t)

/-- R105: a selector up to 4 is stored, every other value changes nothing; `user_fn` is never written. -/
def Obligations.SetWaveStoresOrRejects : Prop :=
  ∀ (sel : Word) (s : State),
    exec (.setWave 0) s = .next { s with waveform := .sine } ∧
    exec (.setWave 1) s = .next { s with waveform := .square } ∧
    exec (.setWave 2) s = .next { s with waveform := .triangle } ∧
    exec (.setWave 3) s = .next { s with waveform := .sawtooth } ∧
    exec (.setWave 4) s = .next { s with waveform := .user } ∧
    (4 < sel.toNat → exec (.setWave sel) s = .next s)

/-- R106: a selector up to 2 is stored and clears the phase, even the current one; every other value
changes nothing. -/
def Obligations.SetResStoresAndRestartsPhase : Prop :=
  ∀ (sel : Word) (s : State),
    exec (.setRes 0) s = .next { s with resolution := .c8_256, phaseAcc := 0 } ∧
    exec (.setRes 1) s = .next { s with resolution := .c8_1024, phaseAcc := 0 } ∧
    exec (.setRes 2) s = .next { s with resolution := .c16_1024, phaseAcc := 0 } ∧
    (2 < sel.toNat → exec (.setRes sel) s = .next s)

/-- R107: a selector up to 2 is stored in every class; every other value changes nothing; in C8_256 the
stored mode has no effect on a sample. -/
def Obligations.SetInterpStoresOrRejects : Prop :=
  ∀ (sel : Word) (s : State),
    exec (.setInterp 0) s = .next { s with interp := .off } ∧
    exec (.setInterp 1) s = .next { s with interp := .linear } ∧
    exec (.setInterp 2) s = .next { s with interp := .quadratic } ∧
    (2 < sel.toNat → exec (.setInterp sel) s = .next s) ∧
    (s.resolution = .c8_256 → ∀ (env : Config.Env) (m : InterpMode) (acc : Word),
      sample env { s with interp := m } acc = sample env s acc)

/-- R86, R202: a selector is compared whole, so that low bits that would match do not; a rejected command
is executed, and leaves every register as it was, `err` included. -/
def Obligations.RejectedSelectorsChangeNothing : Prop :=
  ∀ (hi : BitVec 24) (lo : BitVec 8) (s : State),
    (hi ≠ 0 →
      exec (.setWave (hi ++ lo)) s = .next s ∧ exec (.setRes (hi ++ lo)) s = .next s ∧
      exec (.setInterp (hi ++ lo)) s = .next s) ∧
    (hi = 0 → 4 < lo.toNat → exec (.setWave (hi ++ lo)) s = .next s) ∧
    (hi = 0 → 2 < lo.toNat →
      exec (.setRes (hi ++ lo)) s = .next s ∧ exec (.setInterp (hi ++ lo)) s = .next s)

/-- R108: any handle is stored, 0 included, and USER is selected. -/
def Obligations.SetUserWaveAttaches : Prop :=
  ∀ (h : Word) (s : State), exec (.setUserWave h) s = .next { s with userFn := h, waveform := .user }

/-- R109: unconditional. -/
def Obligations.ClearUserWaveDetaches : Prop :=
  ∀ s : State, exec .clearUserWave s = .next { s with userFn := 0, waveform := .sine }

/-- R110: every value is accepted. -/
def Obligations.SetUserIncOverrides : Prop :=
  ∀ (inc : Word) (s : State), exec (.setUserInc inc) s = .next { s with phaseInc := inc }

/-- R111: the phase is frozen at 0, and every later sample repeats the first. -/
def Obligations.SilenceFreezesPhase : Prop :=
  ∀ s : State,
    exec .silence s = .next { s with phaseAcc := 0, phaseInc := 0 } ∧
    ∃ u, exec .nextSample { s with phaseAcc := 0, phaseInc := 0 } = .next u ∧ u.phaseAcc = 0 ∧
      exec .nextSample u = .next u

/-- R90: a reserved opcode sets ILLEGAL and changes nothing else. -/
def Obligations.ReservedOpcodesOnlySetIllegal : Prop :=
  ∀ s : State,
    let t : State := { s with err := s.err ||| 0b10 }
    exec .reservedD s = .next t ∧ exec .reservedE s = .next t ∧ exec .reservedF s = .next t ∧ faulted t = true

/-! ## NEXT_SAMPLE -/

/-- R150: the phase advances modulo 2^32, whatever the configuration, and the sample is that of the new
phase, emitted whole. -/
def Obligations.NextSampleAdvancesAndEmits : Prop :=
  ∀ s : State,
    ∃ t, exec .nextSample s = .next t ∧
      t.phaseAcc.toNat = (s.phaseAcc.toNat + s.phaseInc.toNat) % 2 ^ 32 ∧
      (t.sampleOut.toNat : Int) = sample Config.env s t.phaseAcc ∧ t.sampleValid = true ∧
      t = { s with phaseAcc := t.phaseAcc, sampleOut := t.sampleOut, sampleValid := true }

/-- R151: the user path scales the user function's value at the new phase, and reads no table. -/
def Obligations.UserPathScalesUserFunction : Prop :=
  ∀ s : State, s.waveform = .user → s.userFn ≠ 0 →
    let acc := s.phaseAcc + s.phaseInc
    exec .nextSample s =
      .next
        { s with
          phaseAcc := acc
          sampleOut :=
            BitVec.ofNat 16 ((Config.userFunction s.userFn acc).toNat * s.amplitude.toNat / 256)
          sampleValid := true } ∧
    tableReads s acc = [] ∧ userRequest s acc = some (s.userFn, acc)

/-- R152's edge case: the user kind with no function yields 0 in every class; the phase still advances. -/
def Obligations.UserKindWithoutFunctionYieldsZero : Prop :=
  ∀ s : State, s.waveform = .user → s.userFn = 0 →
    exec .nextSample s =
      .next { s with phaseAcc := s.phaseAcc + s.phaseInc, sampleOut := 0, sampleValid := true } ∧
    tableReads s (s.phaseAcc + s.phaseInc) = [] ∧ userRequest s (s.phaseAcc + s.phaseInc) = none

/-- R153, R154: in C8_256 the top 8 bits of the new phase select the entry, whatever mode is stored. -/
def Obligations.Class256LooksUpTopByte : Prop :=
  ∀ (s : State) (k : Config.Kind4), tableKind s.waveform = some k → s.resolution = .c8_256 →
    let acc := s.phaseAcc + s.phaseInc
    exec .nextSample s =
      .next
        { s with
          phaseAcc := acc
          sampleOut :=
            BitVec.ofNat 16
              ((Config.table8_256 k (Fin.ofNat 256 (acc.toNat / 2 ^ 24))).toNat * s.amplitude.toNat / 256)
          sampleValid := true }

/-- R156, R158: without interpolation the top 10 bits of the new phase select the entry, the one read. -/
def Obligations.Class1024OffLooksUpEntry : Prop :=
  ∀ (s : State) (k : Config.Kind4), tableKind s.waveform = some k → s.interp = .off →
    let acc := s.phaseAcc + s.phaseInc
    let i := acc.toNat / 2 ^ 22
    (s.resolution ≠ .c8_256 → (tableReads s acc).length = 1) ∧
    (s.resolution = .c8_1024 →
      exec .nextSample s =
        .next
          { s with
            phaseAcc := acc
            sampleOut :=
              BitVec.ofNat 16 ((Config.table8_1024 k (Fin.ofNat 1024 i)).toNat * s.amplitude.toNat / 256)
            sampleValid := true }) ∧
    (s.resolution = .c16_1024 →
      exec .nextSample s =
        .next
          { s with
            phaseAcc := acc
            sampleOut :=
              BitVec.ofNat 16 ((Config.table16_1024 k (Fin.ofNat 1024 i)).toNat * s.amplitude.toNat / 256)
            sampleValid := true })

/-- R156, R159: linear interpolation between entries `i` and `(i + 1) mod 1024`, `>>` being floor division. -/
def Obligations.Class1024LinearInterpolates : Prop :=
  ∀ (s : State) (k : Config.Kind4), tableKind s.waveform = some k → s.interp = .linear →
    let acc := s.phaseAcc + s.phaseInc
    let i := acc.toNat / 2 ^ 22
    let f : Int := (acc.toNat / 2 ^ 12 % 1024 : Nat)
    ∀ a b : Int,
      (s.resolution = .c8_1024 ∧ a = (Config.table8_1024 k (Fin.ofNat 1024 i)).toNat ∧
        b = (Config.table8_1024 k (Fin.ofNat 1024 ((i + 1) % 1024))).toNat) ∨
      (s.resolution = .c16_1024 ∧ a = (Config.table16_1024 k (Fin.ofNat 1024 i)).toNat ∧
        b = (Config.table16_1024 k (Fin.ofNat 1024 ((i + 1) % 1024))).toNat) →
      (tableReads s acc).length = 2 ∧
      exec .nextSample s =
        .next
          { s with
            phaseAcc := acc
            sampleOut := BitVec.ofInt 16 ((a + (b - a) * f / 1024) * s.amplitude.toNat / 256)
            sampleValid := true }

/-- R156, R160: three-point quadratic interpolation, clamped to the bit depth, `>>` being floor division. -/
def Obligations.Class1024QuadraticInterpolates : Prop :=
  ∀ (s : State) (k : Config.Kind4), tableKind s.waveform = some k → s.interp = .quadratic →
    let acc := s.phaseAcc + s.phaseInc
    let i := acc.toNat / 2 ^ 22
    let t : Int := (acc.toNat / 2 ^ 12 % 1024 : Nat)
    ∀ p0 p1 p2 top : Int,
      (s.resolution = .c8_1024 ∧ top = 255 ∧ p0 = (Config.table8_1024 k (Fin.ofNat 1024 i)).toNat ∧
        p1 = (Config.table8_1024 k (Fin.ofNat 1024 ((i + 1) % 1024))).toNat ∧
        p2 = (Config.table8_1024 k (Fin.ofNat 1024 ((i + 2) % 1024))).toNat) ∨
      (s.resolution = .c16_1024 ∧ top = 65535 ∧ p0 = (Config.table16_1024 k (Fin.ofNat 1024 i)).toNat ∧
        p1 = (Config.table16_1024 k (Fin.ofNat 1024 ((i + 1) % 1024))).toNat ∧
        p2 = (Config.table16_1024 k (Fin.ofNat 1024 ((i + 2) % 1024))).toNat) →
      let y := p1 + (p2 - p0) * t / 2048 + (p0 - 2 * p1 + p2) * (t * t / 1024) / 2048
      (tableReads s acc).length = 3 ∧
      exec .nextSample s =
        .next
          { s with
            phaseAcc := acc
            sampleOut := BitVec.ofInt 16 (max 0 (min y top) * s.amplitude.toNat / 256)
            sampleValid := true }

/-- R163: the scaled value, its bounds by bit depth, and its value at amplitudes 0 and 255. -/
def Obligations.ScaleIsFloorOfProduct : Prop :=
  ∀ (amp : BitVec 8) (v : Nat),
    scale amp v = (v * amp.toNat / 256 : Nat) ∧
    (v ≤ 255 → scale amp v ≤ 254) ∧
    (v ≤ 65535 → scale amp v ≤ 65279) ∧
    scale 255 v = (v : Int) - ((v + 255) / 256 : Nat) ∧
    scale 0 v = 0

/-- R165: linear interpolation stays between its two entries, gives the first at fraction 0, rounds as the
rule's examples say, and at the phase of entry `i + 1` reads that entry with fraction 0. -/
def Obligations.LinearStaysBetweenEntries : Prop :=
  (∀ a b f : Int, 0 ≤ f → f ≤ 1023 → min a b ≤ linear a b f ∧ linear a b f ≤ max a b) ∧
  (∀ a b : Int, linear a b 0 = a) ∧
  linear 100 99 1 = 99 ∧ linear 100 101 1023 = 100 ∧
  (∀ i : Nat, i < 1024 →
    index1024 (BitVec.ofNat 32 ((i + 1) * 2 ^ 22)) = (i + 1) % 1024 ∧
    fraction (BitVec.ofNat 32 ((i + 1) * 2 ^ 22)) = 0)

/-- R162: the clamp is reached on both sides in both bit depths, and after it the value is in range. -/
def Obligations.QuadraticIsClampedToDepth : Prop :=
  (∀ p0 p1 p2 f : Int,
    (0 ≤ quadratic 255 p0 p1 p2 f ∧ quadratic 255 p0 p1 p2 f ≤ 255) ∧
    (0 ≤ quadratic 65535 p0 p1 p2 f ∧ quadratic 65535 p0 p1 p2 f ≤ 65535)) ∧
  quadraticRaw 0 255 255 512 = 286 ∧ quadratic 255 0 255 255 512 = 255 ∧
  quadraticRaw 255 0 0 512 = -33 ∧ quadratic 255 255 0 0 512 = 0 ∧
  quadraticRaw 0 65535 65535 512 = 73726 ∧ quadratic 65535 0 65535 65535 512 = 65535 ∧
  quadraticRaw 65535 0 0 512 = -8193 ∧ quadratic 65535 65535 0 0 512 = 0

/-- R161: up to its floors, R160 computes the parabola through `(-1, p0)`, `(0, p1)`, `(1, p2)` at
`x = t / 1024` (both sides times 2^21); so at fraction 0 it gives `p1`, one entry ahead. -/
def Obligations.QuadraticFollowsLeadingParabola : Prop :=
  (∀ p0 p1 p2 t : Int,
    |quadraticRaw p0 p1 p2 t * 2 ^ 21 - (p1 * 2 ^ 21 + (p2 - p0) * t * 2 ^ 10 + (p0 - 2 * p1 + p2) * t ^ 2)| <
      2 ^ 22 + |p0 - 2 * p1 + p2| * 2 ^ 10) ∧
  (∀ p0 p1 p2 top : Int, 0 ≤ p1 → p1 ≤ top → quadratic top p0 p1 p2 0 = p1)

/-- R163, R31: a sample is never negative and fits `sample_out`: at most 254 from an 8-bit table, at most
65279 from any path. -/
def Obligations.SamplesFitSampleOut : Prop :=
  ∀ (env : Config.Env) (s : State) (acc : Word),
    0 ≤ sample env s acc ∧ sample env s acc ≤ 65279 ∧
    (s.waveform ≠ .user → s.resolution ≠ .c16_1024 → sample env s acc ≤ 254)

/-- R164: the 32-bit two's-complement datapath, fed through the ports of R234 by collaborators that
answer what the path in use asks for, computes the samples of the unbounded arithmetic. -/
def Obligations.DatapathRefinesUnboundedArithmetic : Prop :=
  ∀ (env : Config.Env) (s : State) (acc : Word) (d : PortData),
    Answers env s acc d → ((datapathSample s acc d).toNat : Int) = sample env s acc

/-- R168: a sample depends on the entries and the call it requests and on nothing else outside; on the
user path it depends on neither the class nor the mode. -/
def Obligations.SampleDependsOnItsRequestsOnly : Prop :=
  ∀ (env env' : Config.Env) (s : State) (acc : Word),
    ((∀ h p, userRequest s acc = some (h, p) → env.userFunction h p = env'.userFunction h p) →
      (∀ a ∈ tableReads s acc, tableRead env a.cls a.kind a.idx = tableRead env' a.cls a.kind a.idx) →
      sample env s acc = sample env' s acc) ∧
    (takesUserPath s = true →
      ∀ (r : Resolution) (m : InterpMode), sample env { s with resolution := r, interp := m } acc = sample env s acc)

/-- R51, R53, R56, R168: how many entries each path reads, all in one table and in range; and only an edge
that accepts a `NEXT_SAMPLE` asks the collaborators for anything. -/
def Obligations.RequestsAreCountedAndInRange : Prop :=
  ∀ (s : State) (acc : Word),
    (s.waveform = .user → tableReads s acc = []) ∧
    (s.waveform ≠ .user →
      userRequest s acc = none ∧
      (tableReads s acc).length =
        (match s.resolution, s.interp with
          | .c8_256, _ => 1
          | _, .off => 1
          | _, .linear => 2
          | _, .quadratic => 3)) ∧
    (∀ a ∈ tableReads s acc,
      a.cls = s.resolution ∧ tableKind s.waveform = some a.kind ∧
      a.idx < (match s.resolution with | .c8_256 => 256 | _ => 1024)) ∧
    (nextEvent s ≠ .command .nextSample → tablePort s = none ∧ userPort s = none)

/-- R234: the table port carries the class, the kind and the indices of the entries read; in the
1024-sample classes all three indices, in every mode; and in a cycle that accepts a `NEXT_SAMPLE` both
ports carry the request of the phase that the command advances to (R150, R55). That `tbl_idx0[9:8]` has
no value in C8_256 is the model's choice (log 12). -/
def Obligations.TablePortCarriesReads : Prop :=
  (∀ (s : State) (acc : Word) (n : Nat) (a : TableAddr), (tableReads s acc)[n]? = some a →
    ∃ p, tablePortAt s acc = some p ∧ p.cls = resolutionBits a.cls ∧ p.kind = kindBits a.kind ∧
      ((n = 0 ∧
          match p.idx0 with
          | .low8 i => a.cls = .c8_256 ∧ i.toNat = a.idx
          | .all10 i => a.cls ≠ .c8_256 ∧ i.toNat = a.idx) ∨
        (n = 1 ∧ p.idx1.map BitVec.toNat = some a.idx) ∨ (n = 2 ∧ p.idx2.map BitVec.toNat = some a.idx))) ∧
  (∀ (s : State) (acc : Word), s.waveform ≠ .user → s.resolution ≠ .c8_256 →
    ∃ p i, tablePortAt s acc = some p ∧ p.idx0 = .all10 i ∧ i.toNat = acc.toNat / 2 ^ 22 ∧
      p.idx1.map BitVec.toNat = some ((acc.toNat / 2 ^ 22 + 1) % 1024) ∧
      p.idx2.map BitVec.toNat = some ((acc.toNat / 2 ^ 22 + 2) % 1024)) ∧
  (∀ s : State, nextEvent s = .command .nextSample →
    tablePort s = tablePortAt s (s.phaseAcc + s.phaseInc) ∧ userPort s = userRequest s (s.phaseAcc + s.phaseInc))

/-! ## The state and the machine -/

/-- R35: the reset column, and that it holds legal values. -/
def Obligations.ResetStateIsResetColumn : Prop :=
  State.reset.phaseAcc = 0 ∧ State.reset.phaseInc = 0 ∧ State.reset.amplitude = 255 ∧
  State.reset.waveform = .sine ∧ State.reset.resolution = .c8_256 ∧ State.reset.interp = .off ∧
  State.reset.userFn = 0 ∧ State.reset.err = 0 ∧ State.reset.sampleOut = 0 ∧ State.reset.sampleValid = false ∧
  legalValues State.reset

/-- R33, R35, R31: every step keeps the registers at legal values. -/
def Obligations.LegalValuesAreInvariant : Prop :=
  ∀ s t : State, legalValues s → Sys2Proof.Machine.step s = .next t → legalValues t

/-- R24, R25, R26, R32, R234: the outputs show the registers, the enumerated ones by their binary values,
and a selector of that value selects what it shows; `sample_valid` shows the strobe and `cmd_ready` is 1. -/
def Obligations.StatusOutputsShowRegisters : Prop :=
  (∀ s : State,
    let o := statusOutputs s
    o.phaseAcc = s.phaseAcc ∧ o.phaseInc = s.phaseInc ∧ o.amplitude = s.amplitude ∧ o.userFn = s.userFn ∧
    o.err = s.err ∧ o.sampleOut = s.sampleOut ∧ o.sampleValid = s.sampleValid ∧ cmdReady s = true ∧
    waveformOfSel (o.waveform.setWidth 32) = some s.waveform ∧
    resolutionOfSel (o.resolution.setWidth 32) = some s.resolution ∧
    interpOfSel (o.interp.setWidth 32) = some s.interp) ∧
  waveformBits .sine = 0 ∧ waveformBits .square = 1 ∧ waveformBits .triangle = 2 ∧ waveformBits .sawtooth = 3 ∧
  waveformBits .user = 4 ∧
  resolutionBits .c8_256 = 0 ∧ resolutionBits .c8_1024 = 1 ∧ resolutionBits .c16_1024 = 2 ∧
  interpBits .off = 0 ∧ interpBits .linear = 1 ∧ interpBits .quadratic = 2

/-- R36: every command completes, and leaves every register that the access matrix does not give it as it
was; nor does it touch what the host will issue, nor (but for `NEXT_SAMPLE`) the strobe. -/
def Obligations.CommandsKeepToAccessMatrix : Prop :=
  ∀ (i : Instr) (s : State),
    ∃ t, exec i s = .next t ∧ t.port = s.port ∧ (i ≠ .nextSample → t.sampleValid = s.sampleValid) ∧
      ∀ r : Reg, r ∉ mayWrite i → readReg t r = readReg s r

/-- R235: an accepted command word is decoded and run, with the edge used up and the strobe lowered. -/
def Obligations.StepRunsDecodedCommand : Prop :=
  (∀ (w : CommandWord) (rest : List EdgeInput) (s : State), s.port = commandEdge w :: rest →
    Sys2Proof.Machine.step s = exec (decode w) { s with port := rest, sampleValid := false }) ∧
  (∀ (w : CommandWord) (s : State),
    Sys2Proof.Machine.step (s.withFetchWord 68 w.toNat) = exec (decode w) { s with sampleValid := false })

/-- R235, R214: at an edge without a command nothing changes but the strobe; so too once the host issues
nothing more. -/
def Obligations.IdleEdgesChangeNothing : Prop :=
  ∀ (cmd : CommandWord) (rest : List EdgeInput) (s : State),
    (s.port = { rst := false, cmdValid := false, cmd := cmd } :: rest →
      Sys2Proof.Machine.step s = .next { s with port := rest, sampleValid := false }) ∧
    (s.port = [] → Sys2Proof.Machine.step s = .next { s with sampleValid := false })

/-- R230: the reset input gives the reset state from every state, ignores the command of its cycle, and held
for one cycle more gives the same state. -/
def Obligations.ResetInputGivesResetState : Prop :=
  ∀ (v v' : Bool) (w w' : CommandWord) (rest : List EdgeInput) (s : State),
    (s.port = resetEdge v w :: rest → Sys2Proof.Machine.step s = .next { State.reset with port := rest }) ∧
    Sys2Proof.Machine.step { State.reset with port := resetEdge v' w' :: rest } = .next { State.reset with port := rest }

/-- R237, R240: every step answers a next state, one edge later; there is no terminal state. -/
def Obligations.EveryStepTakesOneEdge : Prop :=
  ∀ s : State, ∃ t, Sys2Proof.Machine.step s = .next t ∧ t.port = s.port.tail

/-- R236, R31: `sample_valid` is 1 after an edge exactly when the edge accepted a `NEXT_SAMPLE`, and
`sample_out` holds until the next accepted `NEXT_SAMPLE` or reset. -/
def Obligations.SampleValidMarksNewSamples : Prop :=
  ∀ s t : State, Sys2Proof.Machine.step s = .next t →
    (t.sampleValid = true ↔ nextEvent s = .command .nextSample) ∧
    (nextEvent s = .command .nextSample → (t.sampleOut.toNat : Int) = sample Config.env s t.phaseAcc) ∧
    (nextEvent s ≠ .command .nextSample → nextEvent s ≠ .reset → t.sampleOut = s.sampleOut)

/-- R29: no command clears a bit of `err`; only the reset input does. -/
def Obligations.FaultBitsAreSticky : Prop :=
  (∀ (i : Instr) (s t : State), exec i s = .next t → s.err &&& t.err = s.err) ∧
  (∀ s t : State, Sys2Proof.Machine.step s = .next t → nextEvent s ≠ .reset → s.err &&& t.err = s.err) ∧
  (∀ s t : State, Sys2Proof.Machine.step s = .next t → nextEvent s = .reset → t.err = 0)

/-- R200, R204: DIV0 is raised by a zero rate and ILLEGAL by a reserved opcode, by nothing else and never
both by one command; a faulting command changes nothing but its bit. -/
def Obligations.FaultsHaveTwoCauses : Prop :=
  ∀ (i : Instr) (s : State),
    ∃ t, exec i s = .next t ∧
      (t.err.getLsbD 0 = true ↔
        s.err.getLsbD 0 = true ∨ (∃ f, i = .setFreq f 0) ∨ (∃ n, i = .setNote n 0)) ∧
      (t.err.getLsbD 1 = true ↔ s.err.getLsbD 1 = true ∨ i = .reservedD ∨ i = .reservedE ∨ i = .reservedF) ∧
      (raises i ≠ none → t = { s with err := t.err })

/-- R29, R200, R235: a step without the reset input leaves `err` with the bits it had and those its command
raises, no fewer and no more. -/
def Obligations.StepsRecordExactlyRaisedFaults : Prop :=
  ∀ s t : State, Sys2Proof.Machine.step s = .next t → nextEvent s ≠ .reset →
    t.err = s.err |||
      (match nextEvent s with
        | .command (.setFreq _ r) | .command (.setNote _ r) => if r = 0 then 0b01 else 0
        | .command .reservedD | .command .reservedE | .command .reservedF => 0b10
        | _ => 0)

/-- R201, R207: a fault recorded earlier changes nothing in what a command does: in two states that
differ in `err` alone it does the same, and sets the same bit. -/
def Obligations.CommandsIgnoreRecordedFaults : Prop :=
  ∀ (i : Instr) (s : State) (e : BitVec 2),
    ∃ t, exec i s = .next t ∧ exec i { s with err := e } = .next { t with err := e ||| raisedBits i }

/-! ## Runs -/

/-- R62: a run of one sequence after another is the run of both: each command sees every effect of the
earlier ones and none of the later. -/
def Obligations.RunsComposeInIssueOrder : Prop :=
  ∀ (ws vs : List CommandWord) (s : State),
    (runFrom (ws ++ vs) s).samples = (runFrom ws s).samples ++ (runFrom vs (runFrom ws s).final).samples ∧
    (runFrom (ws ++ vs) s).final = (runFrom vs (runFrom ws s).final).final

/-- R166: with no command between that may write the phase or the increment, `N` samples advance the
phase by `N` increments modulo 2^32. -/
def Obligations.PhaseAccumulates : Prop :=
  ∀ (ws : List CommandWord) (s : State),
    (∀ w ∈ ws, decode w = .nextSample ∨ (Reg.phaseAcc ∉ mayWrite (decode w) ∧ Reg.phaseInc ∉ mayWrite (decode w))) →
    (runFrom ws s).final.phaseAcc.toNat =
      (s.phaseAcc.toNat + ws.countP (fun w => decode w = .nextSample) * s.phaseInc.toNat) % 2 ^ 32 ∧
    (runFrom ws s).final.phaseInc = s.phaseInc

/-- R167: after `SILENCE` every `NEXT_SAMPLE` emits the sample the rule's table gives. -/
def Obligations.SamplesFreezeAfterSilence : Prop :=
  ∀ (w : CommandWord) (ws : List CommandWord) (s : State),
    decode w = .silence → (∀ v ∈ ws, decode v = .nextSample) →
    (runFrom (w :: ws) s).samples = List.replicate ws.length (BitVec.ofInt 16 (frozenValue Config.env s))

/-- R169: an increment that divides 2^32 returns the phase after exactly `2^32 / P` samples, and then only
at multiples of that. -/
def Obligations.PhaseIsPeriodic : Prop :=
  ∀ (ws : List CommandWord) (n : Nat) (s : State),
    s.phaseInc.toNat * n = 2 ^ 32 → (∀ w ∈ ws, decode w = .nextSample) →
    ((runFrom ws s).final.phaseAcc = s.phaseAcc ↔ n ∣ ws.length)

/-- R240, R201, R200: a run after reset is good exactly when none of its commands raises a fault. -/
def Obligations.GoodRunsRaiseNoFault : Prop :=
  ∀ ws : List CommandWord, good ws = true ↔ ∀ w ∈ ws, raises (decode w) = none

/-- R63: whatever the order in which the platform merges the commands of two producers, the run is good
if each producer's commands raise no fault. -/
def Obligations.MergedProducersStayGood : Prop :=
  ∀ a b m : List CommandWord, Merged a b m →
    (∀ w ∈ a, raises (decode w) = none) → (∀ w ∈ b, raises (decode w) = none) → good m = true

/-- R12, R212: an edge at one instance leaves every other as it was, and edges at two instances commute. -/
def Obligations.InstancesAreIndependent : Prop :=
  ∀ (j k : Nat) (p : Platform), j ≠ k →
    (stepInstance k p)[j]? = p[j]? ∧ (stepInstance k p)[k]? = p[k]?.map stepState ∧
    stepInstance j (stepInstance k p) = stepInstance k (stepInstance j p)

/-- R233: `NEXT_SAMPLE` directly after reset is legal: the phase stays 0 and entry 0 of the 256-entry sine
table is emitted, scaled by 255. -/
def Obligations.NextSampleAfterReset : Prop :=
  exec .nextSample State.reset =
    .next
      { State.reset with
        sampleOut := BitVec.ofNat 16 ((Config.table8_256 .sine 0).toNat * 255 / 256), sampleValid := true }
end

