-- ==== Sys2Proof/Tests/Slice0.lean ====
section
/-! SUPPORT. The model's own tests. Expected values come from 95_test_vectors.md and from the rules' own
examples; the wave tables and user functions are that file's FIXTURES, not the repository's. Then one
witness per hypothesis of the statements in Certificates/Slice0/Obligations.lean. -/

namespace Sys2Proof.Tests

open Sys2Proof.Machine Sys2Proof.Safety
open Config (Env)

/-! ### WellFormed: an ill-formed term for each check -/

theorem test_wellFormed_refuses_percent_below : (Instr.setAmpPct (-2 ^ 31 - 1)).wellFormed = false := by decide
theorem test_wellFormed_refuses_percent_above : (Instr.setAmpPct (2 ^ 31)).wellFormed = false := by decide
theorem test_wellFormed_percent_edges :
    (Instr.setAmpPct (-2 ^ 31)).wellFormed = true ∧ (Instr.setAmpPct (2 ^ 31 - 1)).wellFormed = true := by decide

/-! ### Decoding: words written out from R81 to R84 (V-ENC E1 to E20) -/

theorem test_decode_init : decode 0x00000000000000000 = .init := by decide
theorem test_decode_setFreq : decode 0x10000BB8001B80000 = .setFreq 0x01B80000 48000 := by decide
theorem test_decode_setNote : decode 0x20000BB800000ABE0 = .setNote 44000 48000 := by decide
theorem test_decode_setAmpRaw : decode 0x300000000000001FF = .setAmpRaw 0xFF := by decide
theorem test_decode_setAmpPct : decode 0x400000000FFFFFFFF = .setAmpPct (-1) := by decide
theorem test_decode_setWave : decode 0x50000000000000003 = .setWave 3 := by decide
theorem test_decode_setRes : decode 0x6DEADBEEF00000002 = .setRes 2 := by decide
theorem test_decode_setInterp : decode 0x70000000000000002 = .setInterp 2 := by decide
theorem test_decode_setUserWave : decode 0x80000000000000001 = .setUserWave 1 := by decide
theorem test_decode_clearUserWave : decode 0x90000000000000000 = .clearUserWave := by decide
theorem test_decode_setUserInc : decode 0xA00000000FFE00000 = .setUserInc 0xFFE00000 := by decide
theorem test_decode_silence : decode 0xB0000000000000000 = .silence := by decide
theorem test_decode_nextSample : decode 0xCDEADBEEF12345678 = .nextSample := by decide
theorem test_decode_reservedD : decode 0xD0000000000000000 = .reservedD := by decide
theorem test_decode_reservedE : decode 0xE0000000000000000 = .reservedE := by decide
theorem test_decode_reservedF : decode 0xFFFFFFFFFFFFFFFFF = .reservedF := by decide

/-- A bit above bit 67 is refused by name. -/
theorem test_decode_refuses_longer : decodeBits 72 0x1D0000000000000000 = .error .longerThan68Bits := by decide

/-- E2, E7, E9 backwards. -/
theorem test_encode_words :
    encode (.setFreq 0x01B80000 48000) = 0x10000BB8001B80000 ∧ encode (.setAmpPct (-1)) = 0x400000000FFFFFFFF ∧
      encode (.setRes 2) = 0x60000000000000002 := by decide

/-! ### The assembler (R87, R88) -/

theorem test_assemble_comment_and_name : assemble "  SET_RES c16_1024 ; 2" = some [0x60000000000000002] := by decide
theorem test_assemble_lines :
    assemble "SET_NOTE 44000, 48000\n; P1\nSET_AMP_RAW 128" = some [0x20000BB800000ABE0, 0x30000000000000080] := by
  decide
theorem test_assemble_refuses_wide_hz : assemble "SET_FREQ_HZ 65536, 1" = none := by decide
theorem test_assemble_refuses_other_minus : assemble "SET_WAVE -1" = none := by decide

/-! ### Fixtures of 95_test_vectors.md -/

/-- The fixture tables and user functions. -/
def fixtures : Env where
  table8_256 k i :=
    match k with
    | .sine => BitVec.ofNat 8 i.val
    | .square => if i.val < 128 then 255 else 0
    | .triangle => BitVec.ofNat 8 (if i.val < 128 then 2 * i.val else 511 - 2 * i.val)
    | .sawtooth => BitVec.ofNat 8 (255 - i.val)
  table8_1024 k i :=
    match k with
    | .sine => BitVec.ofNat 8 (i.val / 4)
    | .square => if i.val < 512 then 255 else 0
    | .triangle => BitVec.ofNat 8 (if i.val < 512 then i.val / 2 else (1023 - i.val) / 2)
    | .sawtooth => BitVec.ofNat 8 (255 - i.val / 4)
  table16_1024 k i :=
    match k with
    | .sine => BitVec.ofNat 16 (64 * i.val)
    | .square => if i.val < 512 then 65535 else 0
    | .triangle => BitVec.ofNat 16 (if i.val < 512 then 128 * i.val else 128 * (1023 - i.val))
    | .sawtooth => BitVec.ofNat 16 (65535 - 64 * i.val)
  userFunction h phase := if h = 1 then phase.extractLsb' 16 16 else if h = 2 then 0xFFFF else 0

/-- The state after a command, if there is one. -/
def after (i : Instr) (s : State) : Option State :=
  match exec i s with
  | .next t => some t
  | .fault _ => none
  | .refused _ => none

/-- The start of V-INIT IN1. -/
def busy : State :=
  { phaseAcc := 0x12345678, phaseInc := 5, amplitude := 7, waveform := .square, resolution := .c16_1024,
    interp := .quadratic, userFn := 9, err := 1, sampleOut := 300, sampleValid := false, port := [] }

/-! ### One command each -/

/-- IN1. -/
theorem test_init : after .init busy = some { State.reset with err := 1, sampleOut := 300 } := by decide
/-- F10: a tie goes up. -/
theorem test_setFreq_tie : after (.setFreq 1 131072) busy = some { busy with phaseInc := 1 } := by decide
/-- F15. -/
theorem test_setFreq_zero_rate :
    after (.setFreq 0x01B80000 0) { busy with err := 0 } = some { busy with err := 1 } := by decide
/-- NT9: the quotient wraps. -/
theorem test_setNote_wraps : after (.setNote 0xFFFFFFFF 48000) busy = some { busy with phaseInc := 0xC8EC2268 } := by
  decide
/-- NT4: rounded, not truncated. -/
theorem test_setNote_rounds : after (.setNote 1 48000) busy = some { busy with phaseInc := 895 } := by decide
/-- A6. -/
theorem test_setAmpRaw_ignores_high_bits :
    after (decode 0x300000000FFFFFF80) busy = some { busy with amplitude := 128 } := by decide
/-- V-AMP, p = 90: the tie goes up. -/
theorem test_setAmpPct_tie : after (.setAmpPct 90) busy = some { busy with amplitude := 230 } := by decide
/-- A7. -/
theorem test_setAmpPct_negative :
    after (decode 0x40000000080000000) busy = some { busy with amplitude := 0 } := by decide
/-- S4: the held handle is kept. -/
theorem test_setWave_user_keeps_handle : after (.setWave 4) busy = some { busy with waveform := .user } := by decide
/-- S3: 0x102 does not alias 2. -/
theorem test_setWave_rejects_alias : after (.setWave 0x102) busy = some busy := by decide
/-- S6: the phase restarts even when the class stays. -/
theorem test_setRes_restarts : after (.setRes 2) busy = some { busy with phaseAcc := 0 } := by decide
/-- S7. -/
theorem test_setRes_rejects : after (.setRes 3) busy = some busy := by decide
/-- S8. -/
theorem test_setInterp : after (.setInterp 1) busy = some { busy with interp := .linear } := by decide
/-- S9. -/
theorem test_setInterp_rejects : after (.setInterp 0xFFFFFFFF) busy = some busy := by decide
/-- U1, and a null handle (R108). -/
theorem test_setUserWave_null : after (.setUserWave 0) busy = some { busy with userFn := 0, waveform := .user } := by
  decide
/-- R109: unconditional. -/
theorem test_clearUserWave : after .clearUserWave busy = some { busy with userFn := 0, waveform := .sine } := by decide
/-- G3. -/
theorem test_setUserInc : after (.setUserInc 0xFFFFFFFF) busy = some { busy with phaseInc := 0xFFFFFFFF } := by decide
/-- G4. -/
theorem test_silence : after .silence busy = some { busy with phaseAcc := 0, phaseInc := 0 } := by decide
/-- T4 and R90. -/
theorem test_reservedD : after .reservedD busy = some { busy with err := 3 } := by decide
theorem test_reservedE : after .reservedE { busy with err := 0 } = some { busy with err := 2 } := by decide
theorem test_reservedF : after .reservedF busy = some { busy with err := 3 } := by decide

/-! ### NEXT_SAMPLE on the fixtures -/

/-- X13: the 256-sample class. -/
theorem test_next_256 :
    (nextSampleIn fixtures { State.reset with waveform := .sawtooth, phaseInc := 0x12345678 }).sampleOut = 236 := by
  decide
/-- X14: no interpolation. -/
theorem test_next_1024_off :
    (nextSampleIn fixtures { State.reset with resolution := .c8_1024, phaseInc := 0x12345678 }).sampleOut = 17 := by
  decide
/-- L15: linear, across entry 1023. -/
theorem test_next_linear_wraps :
    (nextSampleIn fixtures
      { State.reset with
        resolution := .c16_1024, interp := .linear, waveform := .sawtooth, phaseInc := 0xFFE00000 }).sampleOut =
      32670 := by
  decide
/-- P6 step 5: quadratic, one entry ahead. -/
theorem test_next_quadratic :
    (nextSampleIn fixtures
      { State.reset with resolution := .c16_1024, interp := .quadratic, phaseInc := 0x0258BF26 }).sampleOut = 661 := by
  decide
/-- P3 step 7: the clamp at 0. -/
theorem test_next_quadratic_clamps :
    (nextSampleIn fixtures
      { State.reset with
        resolution := .c8_1024, interp := .quadratic, waveform := .square, phaseInc := 0x7FE00000 }).sampleOut = 0 := by
  decide
/-- U4: the user path. -/
theorem test_next_user :
    let t := nextSampleIn fixtures
      { State.reset with
        waveform := .user, userFn := 2, phaseAcc := 0x40000000, phaseInc := 0x50000000, amplitude := 128 }
    t.phaseAcc = 0x90000000 ∧ t.sampleOut = 32767 ∧ t.sampleValid = true := by
  decide
/-- U5: the user kind with no function. -/
theorem test_next_user_none :
    let t := nextSampleIn fixtures { busy with waveform := .user, userFn := 0, phaseAcc := 0xFFFFFFFF, phaseInc := 1 }
    t.phaseAcc = 0 ∧ t.sampleOut = 0 := by
  decide
/-- L6 and L11: floor, not truncation. -/
theorem test_linear_floors : linear 100 99 1 = 99 ∧ linear 65535 0 1 = 65471 := by decide
/-- Q14, Q10. -/
theorem test_quadratic : quadraticRaw 0 255 255 256 = 278 ∧ quadratic 255 100 0 100 512 = 25 := by decide
/-- The datapath on P6 step 5: `p0, p1, p2 = 576, 640, 704`. -/
theorem test_datapath :
    datapathSample { State.reset with resolution := .c16_1024, interp := .quadratic } 0x0258BF26 ⟨576, 640, 704, 9⟩ =
      661 := by
  decide

/-! ### The ports (R234) -/

/-- X12: the cycle that accepts a `NEXT_SAMPLE` reads at the phase it advances to; in C8_256 that is entry
`acc[31:24]` on `tbl_idx0[7:0]`. -/
theorem test_tablePort_new_phase :
    tablePort { State.reset with phaseInc := 0x01000000, port := [commandEdge 0xC0000000000000000] } =
      some ⟨0, 0, .low8 1, none, none⟩ := by
  decide
/-- U4: the user path's call, and no table read. -/
theorem test_userPort_new_phase :
    let s : State :=
      { State.reset with
        waveform := .user, userFn := 2, phaseAcc := 0x40000000, phaseInc := 0x50000000,
        port := [commandEdge 0xC0000000000000000] }
    userPort s = some (2, 0x90000000) ∧ tablePort s = none := by
  decide

/-! ### Edges (V-TIME) -/

/-- Edge 0: reset, with a command on the port that is ignored. -/
theorem test_step_reset :
    (match step { busy with port := [resetEdge true 0xD0000000000000000] } with
      | .next t => some t
      | _ => none) = some State.reset := by
  decide
/-- Edge 4: nothing changes but the strobe. -/
theorem test_step_idle :
    (match step { busy with sampleValid := true } with
      | .next t => some t
      | _ => none) = some busy := by
  decide
/-- The fetch hook: the very next edge runs the word. -/
theorem test_withFetchWord :
    (match step (busy.withFetchWord 72 0xB0000000000000000) with
      | .next t => some t
      | _ => none) = some { busy with phaseAcc := 0, phaseInc := 0 } := by
  decide

/-! ### Witnesses: each hypothesis of a statement is met -/

theorem witness_OnlyLongerPatternsAreRefused :
    (2 ^ 68 - 1) % 2 ^ 72 < 2 ^ 68 ∧ 2 ^ 68 ≤ (2 ^ 68) % 2 ^ 72 := by decide

theorem witness_DecodeReadsBackEveryCommand : (Instr.setAmpPct (-2 ^ 31)).wellFormed = true := by decide

/-- Each clause at the edges of its condition; hex and decimal texts. -/
theorem witness_PseudoCommandsExpand :
    (number "65535".toList = some 65535 ∧ number "0xFFFF0000".toList = some (65535 * 65536) ∧
      number "48000".toList = some 48000 ∧ 48000 < 2 ^ 32 ∧ 65535 ≤ 65535) ∧
    (number "0x10000".toList = some 65536 ∧ number "4294967296".toList = some (65536 * 65536) ∧ 65535 < 65536) ∧
    number "1".toList = some 1 ∧ number "0".toList = some 0 := by
  decide

theorem witness_IgnoredBitsNeverMatter :
    let w : CommandWord := 0x3000000000000FF01
    let v : CommandWord := 0x3DEADBEEF00000001
    w ≠ v ∧ opField w = opField v ∧ (opField w = 1 ∨ opField w = 2 → arg1Field w = arg1Field v) ∧
      (opField w = 3 → (arg0Field w).toNat % 256 = (arg0Field v).toNat % 256) ∧
      (opField w ∈ [1, 2, 4, 5, 6, 7, 8, 10] → arg0Field w = arg0Field v) := by
  decide

theorem witness_SetFreqLoadsRoundedIncrement :
    (0 : Word) = 0 ∧ (48000 : Word) ≠ 0 ∧ (0xBB800000 : Word).toNat = (48000 : Word).toNat * 2 ^ 16 := by decide

theorem witness_SetNoteLoadsRoundedIncrement :
    (48000 : Word) ≠ 0 ∧ (4800000 : Word).toNat = 100 * (48000 : Word).toNat ∧
      100 * (0x01B80000 : Word).toNat = (44000 : Word).toNat * 2 ^ 16 := by
  decide

theorem witness_FrequencyIsModuloSampleRate :
    (8000 : Word) ≠ 0 ∧ (0x20D00000 : Word).toNat = (0x01900000 : Word).toNat + 1 * ((8000 : Word).toNat * 2 ^ 16) := by
  decide

theorem witness_SetAmpPctClampsAndRounds : (-1 : Int) < 0 ∧ (100 : Int) < 101 ∧ (49 : Int) ≤ 50 := by decide

theorem witness_SetWaveStoresOrRejects : 4 < (5 : Word).toNat := by decide
theorem witness_SetResStoresAndRestartsPhase : 2 < (3 : Word).toNat := by decide
theorem witness_SetInterpStoresOrRejects : 2 < (3 : Word).toNat ∧ State.reset.resolution = .c8_256 := by decide

theorem witness_RejectedSelectorsChangeNothing :
    (1 : BitVec 24) ≠ 0 ∧ (0 : BitVec 24) = 0 ∧ 4 < (5 : BitVec 8).toNat ∧ 2 < (3 : BitVec 8).toNat := by decide

/-- USER with a function attached. -/
def attached : State := { busy with waveform := .user }

theorem witness_UserPathScalesUserFunction : attached.waveform = .user ∧ attached.userFn ≠ 0 := by decide

theorem witness_UserKindWithoutFunctionYieldsZero :
    { attached with userFn := 0 }.waveform = .user ∧ { attached with userFn := 0 }.userFn = 0 := by decide

theorem witness_Class256LooksUpTopByte :
    tableKind State.reset.waveform = some .sine ∧ State.reset.resolution = .c8_256 := by decide

theorem witness_Class1024OffLooksUpEntry :
    let s : State := { busy with interp := .off }
    tableKind s.waveform = some .square ∧ s.interp = .off ∧ s.resolution ≠ .c8_256 ∧ s.resolution = .c16_1024 ∧
      { s with resolution := .c8_1024 }.resolution = .c8_1024 := by
  decide

/-- The 16-bit clause at index 1023, whose neighbour is entry 0. -/
theorem witness_Class1024LinearInterpolates_16 :
    let s : State := { busy with interp := .linear, phaseAcc := 0xFFFFFFFA }
    let i := (s.phaseAcc + s.phaseInc).toNat / 2 ^ 22
    tableKind s.waveform = some .square ∧ s.interp = .linear ∧ i = 1023 ∧
      ∃ a b : Int,
        s.resolution = .c16_1024 ∧ a = (Config.table16_1024 .square (Fin.ofNat 1024 i)).toNat ∧
          b = (Config.table16_1024 .square (Fin.ofNat 1024 ((i + 1) % 1024))).toNat :=
  ⟨rfl, rfl, by decide, _, _, rfl, rfl, rfl⟩

theorem witness_Class1024LinearInterpolates_8 :
    let s : State := { busy with interp := .linear, resolution := .c8_1024 }
    let i := (s.phaseAcc + s.phaseInc).toNat / 2 ^ 22
    tableKind s.waveform = some .square ∧ s.interp = .linear ∧
      ∃ a b : Int,
        s.resolution = .c8_1024 ∧ a = (Config.table8_1024 .square (Fin.ofNat 1024 i)).toNat ∧
          b = (Config.table8_1024 .square (Fin.ofNat 1024 ((i + 1) % 1024))).toNat :=
  ⟨rfl, rfl, _, _, rfl, rfl, rfl⟩

theorem witness_Class1024QuadraticInterpolates_16 :
    let s : State := { busy with phaseAcc := 0xFFFFFFFA }
    let i := (s.phaseAcc + s.phaseInc).toNat / 2 ^ 22
    tableKind s.waveform = some .square ∧ s.interp = .quadratic ∧ i = 1023 ∧
      ∃ p0 p1 p2 top : Int,
        s.resolution = .c16_1024 ∧ top = 65535 ∧ p0 = (Config.table16_1024 .square (Fin.ofNat 1024 i)).toNat ∧
          p1 = (Config.table16_1024 .square (Fin.ofNat 1024 ((i + 1) % 1024))).toNat ∧
          p2 = (Config.table16_1024 .square (Fin.ofNat 1024 ((i + 2) % 1024))).toNat :=
  ⟨rfl, rfl, by decide, _, _, _, _, rfl, rfl, rfl, rfl, rfl⟩

theorem witness_Class1024QuadraticInterpolates_8 :
    let s : State := { busy with resolution := .c8_1024 }
    let i := (s.phaseAcc + s.phaseInc).toNat / 2 ^ 22
    tableKind s.waveform = some .square ∧ s.interp = .quadratic ∧
      ∃ p0 p1 p2 top : Int,
        s.resolution = .c8_1024 ∧ top = 255 ∧ p0 = (Config.table8_1024 .square (Fin.ofNat 1024 i)).toNat ∧
          p1 = (Config.table8_1024 .square (Fin.ofNat 1024 ((i + 1) % 1024))).toNat ∧
          p2 = (Config.table8_1024 .square (Fin.ofNat 1024 ((i + 2) % 1024))).toNat :=
  ⟨rfl, rfl, _, _, _, _, rfl, rfl, rfl, rfl, rfl⟩

/-- K1 and K5: the bounds are reached. -/
theorem witness_ScaleIsFloorOfProduct : (255 ≤ 255 ∧ 65535 ≤ 65535) ∧ scale 255 255 = 254 ∧ scale 255 65535 = 65279 := by
  decide

theorem witness_LinearStaysBetweenEntries : (0 : Int) ≤ 1023 ∧ (1023 : Int) ≤ 1023 ∧ 1023 < 1024 := by decide

theorem witness_QuadraticFollowsLeadingParabola : (0 : Int) ≤ 255 ∧ (255 : Int) ≤ 255 := by decide

theorem witness_SamplesFitSampleOut : State.reset.waveform ≠ .user ∧ State.reset.resolution ≠ .c16_1024 := by decide

/-- A collaborator that answers entry 1 of the fixture sine, in C8_256; the inputs not read hold anything. -/
theorem witness_DatapathRefinesUnboundedArithmetic :
    Answers fixtures State.reset 0x01000000 ⟨1, 0xBEEF, 0xBEEF, 0xBEEF⟩ := by
  refine ⟨fun h p hr => absurd hr (by simp [userRequest, takesUserPath, State.reset]), fun n r hr => ?_⟩
  match n, hr with
  | 0, hr => cases hr; decide
  | n + 1, hr => simp [tableReads, tableKind, State.reset] at hr

/-- Two environments that agree on what a sample requests and differ elsewhere. -/
theorem witness_SampleDependsOnItsRequestsOnly :
    let env' : Env := { fixtures with table8_1024 := fun _ _ => 0, userFunction := fun _ _ => 1 }
    (∀ h p, userRequest State.reset 0 = some (h, p) → fixtures.userFunction h p = env'.userFunction h p) ∧
      (∀ a ∈ tableReads State.reset 0, tableRead fixtures a.cls a.kind a.idx = tableRead env' a.cls a.kind a.idx) ∧
      takesUserPath attached = true := by
  refine ⟨fun h p hr => absurd hr (by simp [userRequest, takesUserPath, State.reset]), ?_, by decide⟩
  intro a ha
  have : a = ⟨.c8_256, .sine, 0⟩ := by simpa [tableReads, tableKind, State.reset, index256] using ha
  subst this
  rfl

theorem witness_RequestsAreCountedAndInRange :
    attached.waveform = .user ∧ busy.waveform ≠ .user ∧ (⟨.c16_1024, .square, 74⟩ : TableAddr) ∈ tableReads busy 0x12345678 ∧
      nextEvent busy ≠ .command .nextSample := by
  decide

/-- One for each of the three indices. -/
theorem witness_TablePortCarriesReads :
    (tableReads busy 0xFFFFFFFF)[0]? = some ⟨.c16_1024, .square, 1023⟩ ∧
      (tableReads busy 0xFFFFFFFF)[1]? = some ⟨.c16_1024, .square, 0⟩ ∧
      (tableReads busy 0xFFFFFFFF)[2]? = some ⟨.c16_1024, .square, 1⟩ ∧
      (tableReads State.reset 0xFF000000)[0]? = some ⟨.c8_256, .sine, 255⟩ ∧
      busy.waveform ≠ .user ∧ busy.resolution ≠ .c8_256 ∧
      nextEvent { busy with port := [commandEdge 0xC0000000000000000] } = .command .nextSample := by
  decide

theorem witness_LegalValuesAreInvariant :
    legalValues { busy with sampleOut := 65279 } ∧
      Sys2Proof.Machine.step { busy with sampleOut := 65279 } = .next { busy with sampleOut := 65279 } :=
  ⟨by unfold legalValues; decide, rfl⟩

theorem witness_CommandsKeepToAccessMatrix :
    Instr.silence ≠ .nextSample ∧ Reg.amplitude ∉ mayWrite .silence ∧ Reg.err ∉ mayWrite .nextSample := by decide

theorem witness_StepRunsDecodedCommand :
    { busy with port := [commandEdge 0xC0000000000000000] }.port = commandEdge 0xC0000000000000000 :: [] := by decide

theorem witness_IdleEdgesChangeNothing :
    { busy with port := [idleEdge] }.port = { rst := false, cmdValid := false, cmd := 0 } :: [] ∧ busy.port = [] := by
  decide

theorem witness_ResetInputGivesResetState :
    { busy with port := [resetEdge true 0, idleEdge] }.port = resetEdge true 0 :: [idleEdge] := by decide

/-- An edge of each kind: idle, reset, `NEXT_SAMPLE`. -/
theorem witness_SampleValidMarksNewSamples :
    Sys2Proof.Machine.step busy = .next busy ∧ nextEvent busy ≠ .command .nextSample ∧ nextEvent busy ≠ .reset ∧
      nextEvent { busy with port := [commandEdge 0xC0000000000000000] } = .command .nextSample ∧
      nextEvent { busy with port := [resetEdge false 0] } = .reset :=
  ⟨rfl, by decide, by decide, by decide, by decide⟩

theorem witness_FaultBitsAreSticky :
    exec .init busy = .next (initRegisters busy) ∧ Sys2Proof.Machine.step busy = .next busy ∧ nextEvent busy ≠ .reset ∧
      Sys2Proof.Machine.step { busy with port := [resetEdge false 0] } = .next State.reset ∧
      nextEvent { busy with port := [resetEdge false 0] } = .reset :=
  ⟨rfl, rfl, by decide, rfl, by decide⟩

/-- An edge with a command that raises DIV0, and one without a command. -/
theorem witness_StepsRecordExactlyRaisedFaults :
    let s : State := { State.reset with port := [commandEdge 0x10000000001B80000] }
    Sys2Proof.Machine.step s = .next { State.reset with err := 1 } ∧ nextEvent s ≠ .reset ∧
      Sys2Proof.Machine.step busy = .next busy ∧ nextEvent busy ≠ .reset :=
  ⟨rfl, by decide, rfl, by decide⟩

theorem witness_FaultsHaveTwoCauses : raises (.setFreq 1 0) ≠ none ∧ raises .reservedF ≠ none := by decide

theorem witness_PhaseAccumulates :
    ∀ w ∈ [(0xC0000000000000000 : CommandWord), 0x50000000000000001],
      decode w = .nextSample ∨ (Reg.phaseAcc ∉ mayWrite (decode w) ∧ Reg.phaseInc ∉ mayWrite (decode w)) := by
  intro w hw
  simp only [List.mem_cons, List.not_mem_nil, or_false] at hw
  rcases hw with rfl | rfl <;> decide

theorem witness_SamplesFreezeAfterSilence :
    decode 0xB0000000000000000 = .silence ∧
      ∀ v ∈ [(0xC0000000000000000 : CommandWord), 0xCDEADBEEF12345678], decode v = .nextSample := by
  refine ⟨by decide, ?_⟩
  intro w hw
  simp only [List.mem_cons, List.not_mem_nil, or_false] at hw
  rcases hw with rfl | rfl <;> decide

theorem witness_PhaseIsPeriodic :
    { State.reset with phaseInc := 0x80000000 }.phaseInc.toNat * 2 = 2 ^ 32 ∧
      ∀ w ∈ [(0xC0000000000000000 : CommandWord), 0xCDEADBEEF12345678], decode w = .nextSample := by
  refine ⟨by decide, ?_⟩
  intro w hw
  simp only [List.mem_cons, List.not_mem_nil, or_false] at hw
  rcases hw with rfl | rfl <;> decide

/-- `SET_WAVE 1` from one producer, `NEXT_SAMPLE` from the other. -/
theorem witness_MergedProducersStayGood :
    Merged [(0x50000000000000001 : CommandWord)] [0xC0000000000000000] [0xC0000000000000000, 0x50000000000000001] ∧
      (∀ w ∈ [(0x50000000000000001 : CommandWord)], raises (decode w) = none) ∧
      (∀ w ∈ [(0xC0000000000000000 : CommandWord)], raises (decode w) = none) :=
  ⟨.right _ (.left _ .done), fun w hw => by rw [List.mem_singleton.1 hw]; decide,
    fun w hw => by rw [List.mem_singleton.1 hw]; decide⟩

theorem witness_InstancesAreIndependent : (0 : Nat) ≠ 1 := by decide

end Sys2Proof.Tests
end

section
/-! Edges at the instances of a platform (00_scope.md R12, 60_exceptions.md R212). -/

namespace Sys2Proof.Machine

/-- An edge at instance `k` steps that instance, if the platform has it. -/
@[simp] theorem getElem?_stepInstance_self (k : Nat) (p : Platform) :
    (stepInstance k p)[k]? = p[k]?.map stepState :=
  List.getElem?_modify_eq stepState k p

/-- The frame of an edge: no instance sees an edge at another (R12). -/
theorem getElem?_stepInstance_of_ne {j k : Nat} (p : Platform) (hjk : j ≠ k) :
    (stepInstance k p)[j]? = p[j]? :=
  List.getElem?_modify_ne stepState p hjk.symm

/-- The platform after edges at two instances does not depend on their order (R212). -/
theorem stepInstance_comm {j k : Nat} (p : Platform) (hjk : j ≠ k) :
    stepInstance j (stepInstance k p) = stepInstance k (stepInstance j p) :=
  List.modify_modify_ne stepState stepState p hjk.symm

end Sys2Proof.Machine

namespace Sys2Proof.Proofs

open Sys2Proof.Machine

/-- Settles O57: the frame of an edge, what it does at its own instance, and that edges at two
instances commute. -/
theorem instancesAreIndependent : Obligations.InstancesAreIndependent :=
  fun _ k p hjk =>
    ⟨getElem?_stepInstance_of_ne p hjk, getElem?_stepInstance_self k p, stepInstance_comm p hjk⟩

end Sys2Proof.Proofs
end

section
/-! The values of a sample (41_sample_production.md R155 to R163): every operation on the way keeps a
value that is not negative and at most `MAX`, so `sample_out` holds at most 65279 (10_state.md R31). -/

namespace Sys2Proof.Machine

open Config (Env Kind4)

/-- `>>` undoes a multiplication by the power of two. -/
@[simp] theorem shiftRight_mul_two_pow (a : Int) (k : Nat) : shiftRight (a * 2 ^ k) k = a :=
  Int.mul_ediv_cancel a (by positivity)

/-- `v >> 8` after the multiplication is not negative where `v` is not (R163). -/
theorem scale_nonneg (amp : BitVec 8) {v : Int} (hv : 0 ≤ v) : 0 ≤ scale amp v :=
  shiftRight_nonneg (mul_nonneg hv (Int.natCast_nonneg _)) 8

/-- Full amplitude on the largest value is the largest scaled value (R163). -/
theorem scale_le_scale_of_le (amp : BitVec 8) {v top : Int} (htop : 0 ≤ top) (hv : v ≤ top) :
    scale amp v ≤ scale 255 top := by
  have hamp : (amp.toNat : Int) ≤ 255 := by have := amp.isLt; omega
  refine shiftRight_mono ?_ 8
  calc v * amp.toNat ≤ top * amp.toNat := mul_le_mul_of_nonneg_right hv (Int.natCast_nonneg _)
    _ ≤ top * 255 := mul_le_mul_of_nonneg_left hamp htop

/-- Linear interpolation stays between its two entries (R165): the shifted term lies between 0 and
`b - a`, because `f` is at most 1024. -/
theorem linear_mem_uIcc (a b : Int) {f : Int} (hf : 0 ≤ f) (hf' : f ≤ 1024) : linear a b f ∈ Set.uIcc a b := by
  have whole : shiftRight ((b - a) * 1024) 10 = b - a := shiftRight_mul_two_pow (b - a) 10
  rw [Set.mem_uIcc, linear]
  rcases le_total a b with hab | hab
  · have low : 0 ≤ shiftRight ((b - a) * f) 10 := shiftRight_nonneg (mul_nonneg (by omega) hf) 10
    have high := shiftRight_mono (mul_le_mul_of_nonneg_left hf' (by omega : 0 ≤ b - a)) 10
    exact .inl ⟨by omega, by omega⟩
  · have low := shiftRight_mono (mul_le_mul_of_nonpos_left hf' (by omega : b - a ≤ 0)) 10
    have high : shiftRight ((b - a) * f) 10 ≤ 0 := by
      simpa using shiftRight_mono (mul_nonpos_of_nonpos_of_nonneg (by omega : b - a ≤ 0) hf) 10
    exact .inr ⟨by omega, by omega⟩

/-- `clamp` answers a value of its range (R14). -/
theorem clampInt_mem_Icc (v : Int) {lo hi : Int} (h : lo ≤ hi) : clampInt v lo hi ∈ Set.Icc lo hi := by
  rw [Set.mem_Icc, clampInt]
  split_ifs <;> omega

/-- Every mode keeps the range of the entries: the lookup is one, linear interpolation lies between two,
and quadratic interpolation is clamped (R158 to R160). -/
theorem interpolate_mem_Icc (mode : InterpMode) {top : Int} {T : Nat → Nat} (hT : ∀ j, (T j : Int) ≤ top)
    (i : Nat) {f : Nat} (hf : f < 1024) : interpolate mode top T i f ∈ Set.Icc 0 top := by
  have entry (j : Nat) : (T j : Int) ∈ Set.Icc 0 top := ⟨Int.natCast_nonneg _, hT j⟩
  cases mode with
  | off => exact entry i
  | linear =>
    exact Set.ordConnected_Icc.uIcc_subset (entry i) (entry (i + 1)) (linear_mem_uIcc _ _ (by omega) (by omega))
  | quadratic => exact clampInt_mem_Icc _ ((Int.natCast_nonneg _).trans (hT i))

/-- Before scaling, a table path gives a value of its class's depth (R154 to R160). -/
theorem classValue_mem_Icc (env : Env) (cls : Resolution) (mode : InterpMode) (kind : Kind4) (acc : Word) :
    classValue env cls mode kind acc ∈ Set.Icc 0 (maxEntry cls) := by
  cases cls with
  | c8_256 => exact ⟨Int.natCast_nonneg _, tableRead_le_maxEntry env .c8_256 kind _⟩
  | c8_1024 => exact interpolate_mem_Icc mode (entry1024_le_maxEntry env .c8_1024 kind) _ (fraction_lt acc)
  | c16_1024 => exact interpolate_mem_Icc mode (entry1024_le_maxEntry env .c16_1024 kind) _ (fraction_lt acc)

/-- No class has an entry wider than 16 bits (R155). -/
theorem maxEntry_le (cls : Resolution) : maxEntry cls ≤ 65535 := by
  cases cls <;> decide

/-- Scaling a 16-bit value gives at most 65279 (R163). -/
theorem scale_mem_Icc (amp : BitVec 8) {v : Int} (hv : v ∈ Set.Icc 0 65535) : scale amp v ∈ Set.Icc 0 65279 :=
  ⟨scale_nonneg amp hv.1, (scale_le_scale_of_le amp (by decide) hv.2).trans (by decide)⟩

/-- A sample of any path lies in `[0, 65279]` (R31, R163). -/
theorem sample_mem_Icc (env : Env) (s : State) (acc : Word) : sample env s acc ∈ Set.Icc 0 65279 := by
  by_cases hw : s.waveform = .user
  · by_cases hf : s.userFn = 0
    · rw [sample_user_none env hw hf]
      decide
    · have hcall := userCall_lt env s.userFn acc
      rw [sample_user env hw hf]
      exact scale_mem_Icc _ ⟨by omega, by omega⟩
  · obtain ⟨kind, hk⟩ := tableKind_isSome hw
    rw [sample_table env hk]
    exact scale_mem_Icc _ (Set.Icc_subset_Icc_right (maxEntry_le _) (classValue_mem_Icc env _ _ kind acc))

/-- So the 16 bits of `sample_out` hold the sample itself (R31). -/
theorem toNat_sampleOut_nextSampleIn (env : Env) (s : State) :
    ((nextSampleIn env s).sampleOut.toNat : Int) = sample env s (s.phaseAcc + s.phaseInc) := by
  obtain ⟨low, high⟩ := sample_mem_Icc env s (s.phaseAcc + s.phaseInc)
  rw [nextSampleIn_sampleOut, BitVec.toNat_ofInt, Int.emod_eq_of_lt low (by omega), Int.toNat_of_nonneg low]

end Sys2Proof.Machine
end

section
/-! What a command writes (10_state.md R36): one frame rule per operation, then the access matrix, the
host's side and the flags of every command. -/

namespace Sys2Proof.Machine

/-! ### The selector commands without a case split: a rejected selector stores what the register holds -/

theorem effectOf_setWave (sel : Word) (s : State) :
    effectOf (.setWave sel) s = s.setWaveform ((waveformOfSel sel).getD s.waveform) := by
  rw [effectOf]
  cases waveformOfSel sel <;> rfl

theorem effectOf_setRes (sel : Word) (s : State) :
    effectOf (.setRes sel) s =
      (s.setResolution ((resolutionOfSel sel).getD s.resolution)).setPhaseAcc
        (if (resolutionOfSel sel).isSome then 0 else s.phaseAcc) := by
  rw [effectOf]
  cases resolutionOfSel sel <;> rfl

theorem effectOf_setInterp (sel : Word) (s : State) :
    effectOf (.setInterp sel) s = s.setInterp ((interpOfSel sel).getD s.interp) := by
  rw [effectOf]
  cases interpOfSel sel <;> rfl

/-! ### The host's side -/

/-- No command touches what the host will issue (R21). -/
@[simp] theorem effectOf_port (i : Instr) (s : State) : (effectOf i s).port = s.port := by
  cases i
  case setWave sel => rw [effectOf_setWave, State.setWaveform_port]
  case setRes sel => rw [effectOf_setRes, State.setPhaseAcc_port, State.setResolution_port]
  case setInterp sel => rw [effectOf_setInterp, State.setInterp_port]
  all_goals simp [effectOf]

/-- No command but `NEXT_SAMPLE` touches the strobe (R236). -/
theorem effectOf_sampleValid {i : Instr} (hi : i ≠ .nextSample) (s : State) :
    (effectOf i s).sampleValid = s.sampleValid := by
  cases i
  case nextSample => exact absurd rfl hi
  case setWave sel => rw [effectOf_setWave, State.setWaveform_sampleValid]
  case setRes sel => rw [effectOf_setRes, State.setPhaseAcc_sampleValid, State.setResolution_sampleValid]
  case setInterp sel => rw [effectOf_setInterp, State.setInterp_sampleValid]
  all_goals simp [effectOf]

end Sys2Proof.Machine

namespace Sys2Proof.Safety

open Sys2Proof.Machine

/-! ### Frame rules: an operation leaves every register it does not write as it reads -/

section Frame

variable {r : Reg} (s : State)

@[simp] theorem readReg_setPhaseAcc (h : r ≠ .phaseAcc) (v : Word) : readReg (s.setPhaseAcc v) r = readReg s r := by
  cases r
  case phaseAcc => exact absurd rfl h
  all_goals rfl

@[simp] theorem readReg_setPhaseInc (h : r ≠ .phaseInc) (v : Word) : readReg (s.setPhaseInc v) r = readReg s r := by
  cases r
  case phaseInc => exact absurd rfl h
  all_goals rfl

@[simp] theorem readReg_setAmplitude (h : r ≠ .amplitude) (v : BitVec 8) :
    readReg (s.setAmplitude v) r = readReg s r := by
  cases r
  case amplitude => exact absurd rfl h
  all_goals rfl

@[simp] theorem readReg_setWaveform (h : r ≠ .waveform) (v : Waveform) : readReg (s.setWaveform v) r = readReg s r := by
  cases r
  case waveform => exact absurd rfl h
  all_goals rfl

@[simp] theorem readReg_setResolution (h : r ≠ .resolution) (v : Resolution) :
    readReg (s.setResolution v) r = readReg s r := by
  cases r
  case resolution => exact absurd rfl h
  all_goals rfl

@[simp] theorem readReg_setInterp (h : r ≠ .interp) (v : InterpMode) : readReg (s.setInterp v) r = readReg s r := by
  cases r
  case interp => exact absurd rfl h
  all_goals rfl

@[simp] theorem readReg_setUserFn (h : r ≠ .userFn) (v : Word) : readReg (s.setUserFn v) r = readReg s r := by
  cases r
  case userFn => exact absurd rfl h
  all_goals rfl

@[simp] theorem readReg_setErr (h : r ≠ .err) (v : BitVec 2) : readReg (s.setErr v) r = readReg s r := by
  cases r
  case err => exact absurd rfl h
  all_goals rfl

@[simp] theorem readReg_setSampleOut (h : r ≠ .sampleOut) (v : Sample) :
    readReg (s.setSampleOut v) r = readReg s r := by
  cases r
  case sampleOut => exact absurd rfl h
  all_goals rfl

@[simp] theorem readReg_setSampleValid (v : Bool) : readReg (s.setSampleValid v) r = readReg s r := by
  cases r <;> rfl

@[simp] theorem readReg_raiseFault (h : r ≠ .err) (code : FaultCode) :
    readReg (raiseFault code s) r = readReg s r := readReg_setErr s h _

@[simp] theorem readReg_loadIncrement (hinc : r ≠ .phaseInc) (herr : r ≠ .err) (rate : Word) (num den : Nat) :
    readReg (loadIncrement rate num den s) r = readReg s r := by
  unfold loadIncrement
  split
  · exact readReg_raiseFault s herr _
  · exact readReg_setPhaseInc s hinc _

@[simp] theorem readReg_nextSampleIn (hacc : r ≠ .phaseAcc) (hout : r ≠ .sampleOut) (env : Config.Env) :
    readReg (nextSampleIn env s) r = readReg s r := by
  simp [nextSampleIn, emit, hacc, hout]

end Frame

/-- A command writes no register that the access matrix does not give it (R36). -/
theorem readReg_effectOf {i : Instr} {r : Reg} (h : r ∉ mayWrite i) (s : State) :
    readReg (effectOf i s) r = readReg s r := by
  cases i <;> simp only [mayWrite, List.mem_cons, List.not_mem_nil, not_or, or_false] at h
  case init => simp [effectOf, initRegisters, h]
  case setWave sel => simp [effectOf_setWave, h]
  case setRes sel => simp [effectOf_setRes, h]
  case setInterp sel => simp [effectOf_setInterp, h]
  all_goals simp [effectOf, h]

/-- Only `NEXT_SAMPLE` writes `sample_out` (R31, R36). -/
theorem sampleOut_notMem_mayWrite {i : Instr} (hi : i ≠ .nextSample) : Reg.sampleOut ∉ mayWrite i := by
  cases i
  case nextSample => exact absurd rfl hi
  all_goals simp [mayWrite]

/-! ### The flags -/

@[simp] theorem raisedBits_setFreq (f r : Word) : raisedBits (.setFreq f r) = if r = 0 then 0b01 else 0 := by
  rw [raisedBits, raises]
  split_ifs <;> rfl

@[simp] theorem raisedBits_setNote (n r : Word) : raisedBits (.setNote n r) = if r = 0 then 0b01 else 0 :=
  raisedBits_setFreq n r

/-- Every command keeps the bits of `err` and adds those it raises (R29, R200). -/
theorem effectOf_err (i : Instr) (s : State) : (effectOf i s).err = s.err ||| raisedBits i := by
  cases i
  case setFreq f r => simp only [effectOf, loadIncrement_err, raisedBits_setFreq]; split <;> simp
  case setNote n r => simp only [effectOf, loadIncrement_err, raisedBits_setNote]; split <;> simp
  case setWave sel => simp [effectOf_setWave, raisedBits, raises]
  case setRes sel => simp [effectOf_setRes, raisedBits, raises]
  case setInterp sel => simp [effectOf_setInterp, raisedBits, raises]
  all_goals simp [effectOf, raisedBits, raises]

end Sys2Proof.Safety
end

section
/-! What a step answers (70_reset_and_hazards.md R230, R235), and the legal values it keeps
(10_state.md R33, R35). -/

namespace Sys2Proof.Machine

@[simp] theorem passEdge_err (s : State) : (passEdge s).err = s.err := rfl

@[simp] theorem resetRegisters_err (s : State) : (resetRegisters s).err = 0 := rfl

/-- The state after an edge with the event `ev`. -/
def eventEffect (ev : Event) (s : State) : State :=
  match ev with
  | .reset => resetRegisters (passEdge s)
  | .idle => passEdge s
  | .command i => effectOf i (passEdge s)

/-- Every step answers the effect of its event: none faults, none is refused. -/
theorem step_eq (s : State) : step s = .next (eventEffect (nextEvent s) s) := by
  rcases step_eq_of_event s with ⟨hev, h⟩ | ⟨hev, h⟩ | ⟨i, hev, h⟩ <;> rw [hev, h]
  · rfl
  · rfl
  · exact exec_eq i (passEdge s)

/-- The one next state of a step. -/
theorem eq_of_step_eq {s t : State} (h : step s = .next t) : t = eventEffect (nextEvent s) s := by
  rw [step_eq] at h
  exact (Host.Outcome.next.inj h).symm

/-- The one next state of a command. -/
theorem eq_of_exec_eq {i : Instr} {s t : State} (h : exec i s = .next t) : t = effectOf i s := by
  rw [exec_eq] at h
  exact (Host.Outcome.next.inj h).symm

end Sys2Proof.Machine

namespace Sys2Proof.Safety

open Sys2Proof.Machine

/-- Bits joined to a word clear none of its own. -/
theorem and_or_absorb {w : Nat} (x y : BitVec w) : x &&& (x ||| y) = x := by
  ext i hi
  simpa using Or.inl

/-- The bits of `err` that an edge sets. -/
def eventBits : Event → BitVec 2
  | .command i => raisedBits i
  | _ => 0

/-- An edge without the reset input keeps the bits of `err` and adds those its command raises (R200, R235). -/
theorem eventEffect_err {ev : Event} (hev : ev ≠ .reset) (s : State) :
    (eventEffect ev s).err = s.err ||| eventBits ev := by
  cases ev with
  | reset => exact absurd rfl hev
  | idle => simp [eventEffect, eventBits]
  | command i => exact effectOf_err i (passEdge s)

/-- The enumerated registers are legal by their types (R33): what legality asks is the bound on `sample_out`. -/
theorem legalValues_iff (s : State) : legalValues s ↔ s.sampleOut.toNat ≤ 65279 := by
  have hw : readReg s .waveform ≤ 4 := by rw [readReg]; cases s.waveform <;> decide
  have hr : readReg s .resolution ≤ 2 := by rw [readReg]; cases s.resolution <;> decide
  have hm : readReg s .interp ≤ 2 := by rw [readReg]; cases s.interp <;> decide
  exact ⟨fun ⟨_, _, _, hout⟩ => hout, fun hout => ⟨hw, hr, hm, hout⟩⟩

theorem legalValues_reset : legalValues State.reset := by
  rw [legalValues_iff]
  decide

/-- A command that keeps to the access matrix keeps `sample_out` (R36), and `NEXT_SAMPLE` bounds it (R31). -/
theorem legalValues_effectOf (i : Instr) {s : State} (hs : legalValues s) : legalValues (effectOf i s) := by
  rw [legalValues_iff] at hs ⊢
  by_cases hi : i = .nextSample
  · subst hi
    have hout := toNat_sampleOut_nextSampleIn Config.env s
    have hmax := (sample_mem_Icc Config.env s (s.phaseAcc + s.phaseInc)).2
    rw [effectOf]
    omega
  · have hout : (effectOf i s).sampleOut.toNat = s.sampleOut.toNat :=
      readReg_effectOf (sampleOut_notMem_mayWrite hi) s
    rwa [hout]

/-- Every edge keeps the registers legal: the reset input by the reset column, a command by its own rule. -/
theorem legalValues_eventEffect (ev : Event) {s : State} (hs : legalValues s) :
    legalValues (eventEffect ev s) := by
  have hpass : legalValues (passEdge s) := hs
  cases ev with
  | reset => exact legalValues_reset
  | idle => exact hpass
  | command i => exact legalValues_effectOf i hpass

end Sys2Proof.Safety
end

section
/-! The outputs of the enumerated registers (30_encoding.md R86, 10_state.md R32): a selector of the value
shown selects what is shown. -/

namespace Sys2Proof.Machine

theorem waveformOfSel_waveformBits (w : Waveform) : waveformOfSel ((waveformBits w).setWidth 32) = some w := by
  cases w <;> rfl

theorem resolutionOfSel_resolutionBits (r : Resolution) :
    resolutionOfSel ((resolutionBits r).setWidth 32) = some r := by
  cases r <;> rfl

theorem interpOfSel_interpBits (m : InterpMode) : interpOfSel ((interpBits m).setWidth 32) = some m := by
  cases m <;> rfl

end Sys2Proof.Machine

namespace Sys2Proof.Proofs

open Sys2Proof.Machine Sys2Proof.Safety

/-- Settles O40: legality is an invariant of every event. -/
theorem legalValuesAreInvariant : Obligations.LegalValuesAreInvariant := by
  intro s t hs hst
  rw [eq_of_step_eq hst]
  exact legalValues_eventEffect _ hs

/-- Settles O60: the bits an edge adds, read off its event. -/
theorem stepsRecordExactlyRaisedFaults : Obligations.StepsRecordExactlyRaisedFaults := by
  intro s t hst hev
  rw [eq_of_step_eq hst, eventEffect_err hev]
  congr 1
  cases hn : nextEvent s with
  | reset => exact absurd hn hev
  | idle => rfl
  | command i =>
    cases i
    case setFreq f r => exact raisedBits_setFreq f r
    case setNote n r => exact raisedBits_setNote n r
    all_goals rfl

/-- Settles O42: every command answers its effect, which keeps to the access matrix. -/
theorem commandsKeepToAccessMatrix : Obligations.CommandsKeepToAccessMatrix := fun i s =>
  ⟨effectOf i s, exec_eq i s, effectOf_port i s, fun hi => effectOf_sampleValid hi s, fun _ hr => readReg_effectOf hr s⟩

/-- Settles O48: a command and an edge only add bits, and the reset input writes 0. -/
theorem faultBitsAreSticky : Obligations.FaultBitsAreSticky := by
  refine ⟨fun i s t h => ?_, fun s t h hev => ?_, fun s t h hev => ?_⟩
  · rw [eq_of_exec_eq h, effectOf_err, and_or_absorb]
  · rw [eq_of_step_eq h, eventEffect_err hev, and_or_absorb]
  · rw [eq_of_step_eq h, hev, eventEffect, resetRegisters_err]

/-- Settles O39: the reset column, and its legality. -/
theorem resetStateIsResetColumn : Obligations.ResetStateIsResetColumn :=
  ⟨rfl, rfl, rfl, rfl, rfl, rfl, rfl, rfl, rfl, rfl, legalValues_reset⟩

/-- Settles O41: the plain outputs are the registers, and the enumerated ones read back. -/
theorem statusOutputsShowRegisters : Obligations.StatusOutputsShowRegisters :=
  ⟨fun s =>
    ⟨rfl, rfl, rfl, rfl, rfl, rfl, rfl, rfl, waveformOfSel_waveformBits s.waveform,
      resolutionOfSel_resolutionBits s.resolution, interpOfSel_interpBits s.interp⟩,
    rfl, rfl, rfl, rfl, rfl, rfl, rfl, rfl, rfl, rfl, rfl⟩

end Sys2Proof.Proofs
end

section
/-! What a sample asks of the collaborators (20_memory.md R50 to R56, 41_sample_production.md R168): the
entries it reads, as indices into the one table of the state's class and kind, and when it asks at all. -/

namespace Sys2Proof.Machine

open Config (Kind4)

/-- The indices that a class and a mode read at phase `acc`, in order (R153, R156 to R160). -/
def readIndices (cls : Resolution) (mode : InterpMode) (acc : Word) : List Nat :=
  match cls, mode with
  | .c8_256, _ => [index256 acc]
  | _, .off => [index1024 acc]
  | _, .linear => [index1024 acc, (index1024 acc + 1) % 1024]
  | _, .quadratic => [index1024 acc, (index1024 acc + 1) % 1024, (index1024 acc + 2) % 1024]

/-- The number of entries in a table of a class (R10). -/
def tableSize : Resolution → Nat
  | .c8_256 => 256
  | .c8_1024 => 1024
  | .c16_1024 => 1024

/-- The user kind has no table to read (R51). -/
theorem tableReads_user {s : State} (hw : s.waveform = .user) (acc : Word) : tableReads s acc = [] := by
  simp [tableReads, hw, tableKind]

/-- Every other kind reads its indices in the table of the state's class and of that kind (R53). -/
theorem tableReads_table {s : State} {kind : Kind4} (hk : tableKind s.waveform = some kind) (acc : Word) :
    tableReads s acc = (readIndices s.resolution s.interp acc).map (TableAddr.mk s.resolution kind) := by
  rw [tableReads, hk]
  cases s.resolution <;> cases s.interp <;> rfl

/-- The index of an entry that a path reads lies in the table of its class (R51). -/
theorem lt_tableSize_of_mem_readIndices {cls : Resolution} {mode : InterpMode} {acc : Word} {j : Nat}
    (hj : j ∈ readIndices cls mode acc) : j < tableSize cls := by
  have h256 := index256_lt acc
  have h1024 := index1024_lt acc
  cases cls <;> cases mode <;>
    simp only [readIndices, List.mem_cons, List.not_mem_nil, or_false] at hj <;>
    simp only [tableSize] <;> omega

/-- Every entry read is one of the table of the state's class and kind, its index in range (R51, R53). -/
theorem mem_tableReads {s : State} {acc : Word} {a : TableAddr} (ha : a ∈ tableReads s acc) :
    a.cls = s.resolution ∧ tableKind s.waveform = some a.kind ∧ a.idx < tableSize s.resolution := by
  by_cases hw : s.waveform = .user
  · simp [tableReads_user hw] at ha
  · obtain ⟨kind, hk⟩ := tableKind_isSome hw
    rw [tableReads_table hk, List.mem_map] at ha
    obtain ⟨j, hj, rfl⟩ := ha
    exact ⟨rfl, hk, lt_tableSize_of_mem_readIndices hj⟩

/-- Only the user kind makes a call (R56). -/
theorem userRequest_table {s : State} (hw : s.waveform ≠ .user) (acc : Word) : userRequest s acc = none := by
  simp [userRequest, takesUserPath, hw]

/-- An edge that accepts no `NEXT_SAMPLE` samples no phase (R234). -/
theorem sampledPhase_eq_none {s : State} (h : nextEvent s ≠ .command .nextSample) : sampledPhase s = none := by
  unfold sampledPhase
  split
  · contradiction
  · rfl

end Sys2Proof.Machine

namespace Sys2Proof.Proofs

open Sys2Proof.Machine

/-- Settles O37: the entries read are the indices of the class and the mode in one table, and without a
sampled phase neither port carries a request. -/
theorem requestsAreCountedAndInRange : Obligations.RequestsAreCountedAndInRange := by
  refine fun s acc => ⟨fun hw => tableReads_user hw acc, fun hw => ⟨userRequest_table hw acc, ?_⟩, ?_, fun hev => ?_⟩
  · obtain ⟨kind, hk⟩ := tableKind_isSome hw
    rw [tableReads_table hk, List.length_map]
    cases s.resolution <;> cases s.interp <;> rfl
  · intro a ha
    obtain ⟨hcls, hkind, hidx⟩ := mem_tableReads ha
    refine ⟨hcls, hkind, hidx.trans_eq ?_⟩
    cases s.resolution <;> rfl
  · simp [tablePort, userPort, sampledPhase_eq_none hev]

end Sys2Proof.Proofs
end

section
/-! Runs, command by command (20_memory.md R62, R63, 70_reset_and_hazards.md R240): what the host has yet
to issue does not change what a command does, so a run is one command and then the run of the rest. -/

namespace Sys2Proof.Machine

/-- What the host will issue does not change what a command does (R21, R62). -/
theorem effectOf_setPort (i : Instr) (p : List EdgeInput) (s : State) :
    effectOf i (s.setPort p) = (effectOf i s).setPort p := by
  cases i
  case setFreq f r => simp only [effectOf, loadIncrement]; split <;> rfl
  case setNote n r => simp only [effectOf, loadIncrement]; split <;> rfl
  case setWave sel => simp only [effectOf]; split <;> rfl
  case setRes sel => simp only [effectOf]; split <;> rfl
  case setInterp sel => simp only [effectOf]; split <;> rfl
  all_goals rfl

/-- A merge issues the commands of both producers and no others (R63). -/
theorem Merged.mem_iff {α : Type} {a b m : List α} (h : Merged a b m) (x : α) : x ∈ m ↔ x ∈ a ∨ x ∈ b := by
  induction h with
  | done => simp
  | left y _ ih => simp [ih, or_assoc]
  | right y _ ih => simp [ih, or_left_comm]

end Sys2Proof.Machine

namespace Sys2Proof.Safety

open Sys2Proof.Machine

/-- The state after the edge that accepts the command word `w`: the strobe falls and the command runs (R235). -/
def issue (w : CommandWord) (s : State) : State := effectOf (decode w) (s.setSampleValid false)

/-- The next edge of a schedule issues its first command (R235). -/
theorem step_schedule_cons (w : CommandWord) (ws : List CommandWord) (s : State) :
    step (schedule (w :: ws) s) = .next (schedule ws (issue w s)) := by
  rw [step_eq]
  exact congrArg Host.Outcome.next (effectOf_setPort (decode w) (ws.map commandEdge) (s.setSampleValid false))

theorem runFrom_nil (s : State) : runFrom [] s = ⟨[], s.setPort []⟩ := rfl

/-- A run sets the host's schedule itself. -/
@[simp] theorem runFrom_setPort (ws : List CommandWord) (p : List EdgeInput) (s : State) :
    runFrom ws (s.setPort p) = runFrom ws s := rfl

/-- The final state of a run is that of its tail, from the state after its first command. -/
@[simp] theorem runFrom_cons_final (w : CommandWord) (ws : List CommandWord) (s : State) :
    (runFrom (w :: ws) s).final = (runFrom ws (issue w s)).final := by
  simp only [runFrom, List.length_cons, runEdges, step_schedule_cons]

/-- The samples of a run: that of its first command, where it raises the strobe, and those of its tail (R236). -/
theorem runFrom_cons_samples (w : CommandWord) (ws : List CommandWord) (s : State) :
    (runFrom (w :: ws) s).samples =
      if (issue w s).sampleValid then (issue w s).sampleOut :: (runFrom ws (issue w s)).samples
      else (runFrom ws (issue w s)).samples := by
  simp only [runFrom, List.length_cons, runEdges, step_schedule_cons]
  rfl

/-- The final state of a run of one sequence after another (R62). -/
theorem runFrom_append_final (ws vs : List CommandWord) (s : State) :
    (runFrom (ws ++ vs) s).final = (runFrom vs (runFrom ws s).final).final := by
  induction ws generalizing s with
  | nil => simp [runFrom_nil]
  | cons w ws ih => simp [ih]

/-- The samples of a run of one sequence after another (R62). -/
theorem runFrom_append_samples (ws vs : List CommandWord) (s : State) :
    (runFrom (ws ++ vs) s).samples = (runFrom ws s).samples ++ (runFrom vs (runFrom ws s).final).samples := by
  induction ws generalizing s with
  | nil => simp [runFrom_nil]
  | cons w ws ih =>
    rw [List.cons_append, runFrom_cons_samples, runFrom_cons_samples, runFrom_cons_final, ih]
    split <;> rfl

/-! ### Flags along a run -/

/-- A command sets no bit of `err` exactly when it raises no fault (R200). -/
theorem raisedBits_eq_zero_iff (i : Instr) : raisedBits i = 0 ↔ raises i = none := by
  rw [raisedBits]
  cases raises i with
  | none => simp
  | some code => cases code <;> decide

/-- A command leaves `err` clear exactly when it was clear and the command raises no fault (R29, R200). -/
theorem issue_err_eq_zero_iff (w : CommandWord) (s : State) :
    (issue w s).err = 0 ↔ s.err = 0 ∧ raises (decode w) = none := by
  rw [issue, effectOf_err, ← raisedBits_eq_zero_iff]
  exact BitVec.or_eq_zero_iff

/-- A run leaves `err` clear exactly when it was clear and no command raises a fault (R29, R200, R201). -/
theorem runFrom_final_err_eq_zero_iff (ws : List CommandWord) (s : State) :
    (runFrom ws s).final.err = 0 ↔ s.err = 0 ∧ ∀ w ∈ ws, raises (decode w) = none := by
  induction ws generalizing s with
  | nil => simp [runFrom_nil]
  | cons w ws ih => rw [runFrom_cons_final, ih, issue_err_eq_zero_iff, List.forall_mem_cons, and_assoc]

/-- A run after reset is good exactly when none of its commands raises a fault (R240). -/
theorem good_iff (ws : List CommandWord) : good ws = true ↔ ∀ w ∈ ws, raises (decode w) = none := by
  have hreset : State.reset.err = 0 := rfl
  have hgood : good ws = true ↔ (runFrom ws State.reset).final.err = 0 := by
    rw [good, faulted, observe, Bool.not_eq_true', decide_eq_false_iff_not, not_not]
  rw [hgood, runFrom_final_err_eq_zero_iff, and_iff_right hreset]

end Sys2Proof.Safety

namespace Sys2Proof.Proofs

open Sys2Proof.Machine Sys2Proof.Safety

/-- Settles O51: by induction on the first sequence, each command leaving the state the rest runs from. -/
theorem runsComposeInIssueOrder : Obligations.RunsComposeInIssueOrder :=
  fun ws vs s => ⟨runFrom_append_samples ws vs s, runFrom_append_final ws vs s⟩

/-- Settles O56: every command of a merge is one of a producer's, and a run of commands that raise no
fault is good. -/
theorem mergedProducersStayGood : Obligations.MergedProducersStayGood := fun _ _ m hm ha hb =>
  (good_iff m).2 fun w hw => ((hm.mem_iff w).1 hw).elim (ha w) (hb w)

end Sys2Proof.Proofs
end

section
/-! The command that three fields spell (30_encoding.md R81 to R85): `decode` and `encode` over the fields
of a word, and what the ignored bits leave. -/

namespace Sys2Proof

/-! ### Decoding -/

/-- The command that an opcode and two arguments spell (R83, R84). -/
def commandOf (op : BitVec 4) (arg1 arg0 : Word) : Instr :=
  match op.toNat with
  | 0x0 => .init
  | 0x1 => .setFreq arg0 arg1
  | 0x2 => .setNote arg0 arg1
  | 0x3 => .setAmpRaw (rawAmpField arg0)
  | 0x4 => .setAmpPct (asSigned32 arg0)
  | 0x5 => .setWave arg0
  | 0x6 => .setRes arg0
  | 0x7 => .setInterp arg0
  | 0x8 => .setUserWave arg0
  | 0x9 => .clearUserWave
  | 0xA => .setUserInc arg0
  | 0xB => .silence
  | 0xC => .nextSample
  | 0xD => .reservedD
  | 0xE => .reservedE
  | _   => .reservedF

/-- A word spells what its fields spell (R81). -/
theorem decode_eq (w : CommandWord) : decode w = commandOf (opField w) (arg1Field w) (arg0Field w) := rfl

theorem decode_mkWord (op : BitVec 4) (arg1 arg0 : Word) : decode (mkWord op arg1 arg0) = commandOf op arg1 arg0 := by
  rw [decode_eq, opField_mkWord, arg1Field_mkWord, arg0Field_mkWord]

/-- `arg0[7:0]` is `arg0` modulo 256 (R83). -/
theorem rawAmpField_eq (arg0 : Word) : rawAmpField arg0 = BitVec.ofNat 8 (arg0.toNat % 256) := by
  apply BitVec.eq_of_toNat_eq
  simp [rawAmpField]

/-- The two's-complement reading, written out (R13). -/
theorem asSigned32_eq (arg0 : Word) :
    asSigned32 arg0 = if arg0.toNat < 2 ^ 31 then (arg0.toNat : Int) else (arg0.toNat : Int) - 2 ^ 32 := by
  rw [asSigned32, BitVec.toInt_eq_toNat_cond]
  split_ifs <;> omega

/-- What a word decodes to is well formed: the one operand with a range is read from 32 bits (R83, R91). -/
theorem wellFormed_commandOf (op : BitVec 4) (arg1 arg0 : Word) : (commandOf op arg1 arg0).wellFormed = true := by
  have percent : (Instr.setAmpPct (asSigned32 arg0)).wellFormed = true := by
    simpa [Instr.wellFormed] using asSigned32_range arg0
  unfold commandOf
  split
  case h_5 => exact percent
  all_goals rfl

/-- The bit pattern of the low `nbits` bits is a command word when no bit above bit 67 is set (R80). -/
theorem commandWordOfBits_of_lt {nbits w : Nat} (h : w % 2 ^ nbits < 2 ^ 68) :
    commandWordOfBits nbits w = .ok (BitVec.ofNat 68 (w % 2 ^ nbits)) := if_pos h

/-- A longer pattern is refused (R80). -/
theorem commandWordOfBits_of_le {nbits w : Nat} (h : 2 ^ 68 ≤ w % 2 ^ nbits) :
    commandWordOfBits nbits w = .error .longerThan68Bits := if_neg h.not_gt

/-! ### Masking a word to the bits that its format uses (R83, R85) -/

@[simp] theorem mkWord_and_formatAB (op : BitVec 4) (arg1 arg0 : Word) :
    mkWord op arg1 arg0 &&& mkWord 0xF#4 0xFFFFFFFF#32 0xFFFFFFFF#32 = mkWord op arg1 arg0 :=
  BitVec.and_allOnes

@[simp] theorem mkWord_and_formatA (op : BitVec 4) (arg1 arg0 : Word) :
    mkWord op arg1 arg0 &&& mkWord 0xF#4 0#32 0xFFFFFFFF#32 = mkWord op 0 arg0 := by
  rw [mkWord_and]
  exact congr (congr_arg₂ mkWord BitVec.and_allOnes BitVec.and_zero) BitVec.and_allOnes

@[simp] theorem mkWord_and_formatN (op : BitVec 4) (arg1 arg0 : Word) :
    mkWord op arg1 arg0 &&& mkWord 0xF#4 0#32 0#32 = mkWord op 0 0 := by
  rw [mkWord_and]
  exact congr (congr_arg₂ mkWord BitVec.and_allOnes BitVec.and_zero) BitVec.and_zero

/-- The mask of `SET_AMP_RAW` keeps `arg0[7:0]`. -/
@[simp] theorem mkWord_and_rawAmp (op : BitVec 4) (arg1 arg0 : Word) :
    mkWord op arg1 arg0 &&& mkWord 0xF#4 0#32 0xFF#32 = mkWord op 0 ((rawAmpField arg0).setWidth 32) := by
  have low : arg0 &&& 0xFF#32 = (rawAmpField arg0).setWidth 32 := by
    apply BitVec.eq_of_toNat_eq
    have mask := Nat.and_two_pow_sub_one_eq_mod arg0.toNat 8
    simp [rawAmpField] at mask ⊢
    omega
  rw [mkWord_and]
  exact congr (congr_arg₂ mkWord BitVec.and_allOnes BitVec.and_zero) low

/-- The encoder writes the used bits of the word a command was read from, and 0 elsewhere (R85, R87): each
opcode's mask is that of its format. -/
theorem encode_commandOf (op : BitVec 4) (arg1 arg0 : Word) :
    encode (commandOf op arg1 arg0) = mkWord op arg1 arg0 &&& usedBits op := by
  rcases opcode_cases op with
    rfl | rfl | rfl | rfl | rfl | rfl | rfl | rfl | rfl | rfl | rfl | rfl | rfl | rfl | rfl | rfl <;>
  simp [commandOf, encode, opcodeOf, usedBits]

/-- A command depends on the operand bits of its format alone (R83, R85). -/
theorem commandOf_congr {op : BitVec 4} {arg1 arg1' arg0 arg0' : Word} (formatAB : op = 1 ∨ op = 2 → arg1 = arg1')
    (rawAmp : op = 3 → arg0.toNat % 256 = arg0'.toNat % 256)
    (whole : op ∈ [1, 2, 4, 5, 6, 7, 8, 10] → arg0 = arg0') :
    commandOf op arg1 arg0 = commandOf op arg1' arg0' := by
  rcases opcode_cases op with
    rfl | rfl | rfl | rfl | rfl | rfl | rfl | rfl | rfl | rfl | rfl | rfl | rfl | rfl | rfl | rfl <;>
  simp_all [commandOf, rawAmpField_eq]

/-- The decoder reads back the command of a word the encoder wrote, its operands being the fields' own (R81 to R84). -/
theorem decode_encode {i : Instr} (hi : i.wellFormed = true) : decode (encode i) = i := by
  cases i
  case setAmpRaw value =>
    calc decode (encode (.setAmpRaw value)) = .setAmpRaw (rawAmpField (value.setWidth 32)) := decode_mkWord _ _ _
      _ = .setAmpRaw value := congr_arg _ (rawAmpField_setWidth value)
  case setAmpPct percent =>
    obtain ⟨low, high⟩ : -2 ^ 31 ≤ percent ∧ percent < 2 ^ 31 := by simpa [Instr.wellFormed] using hi
    calc decode (encode (.setAmpPct percent)) = .setAmpPct (asSigned32 (ofSigned32 percent)) := decode_mkWord _ _ _
      _ = .setAmpPct percent := congr_arg _ (asSigned32_ofSigned32 low high)
  all_goals exact decode_mkWord _ _ _

end Sys2Proof

namespace Sys2Proof.Proofs

/-- Settles O4: each operand is read from the field it was written to. -/
theorem decodeReadsBackEveryCommand : Obligations.DecodeReadsBackEveryCommand := fun _ => decode_encode

/-- Settles O5: a word's own fields spell a well-formed command, whose word is theirs masked to its format. -/
theorem encodeGivesBackUsedBits : Obligations.EncodeGivesBackUsedBits := by
  intro w
  refine ⟨wellFormed_commandOf _ _ _, ?_⟩
  rw [decode_eq, encode_commandOf, mkWord_fields]

/-- Settles O6: words that agree on the operand bits decode to one command. -/
theorem ignoredBitsNeverMatter : Obligations.IgnoredBitsNeverMatter := by
  intro w v hop formatAB rawAmp whole s
  have same : decode w = decode v := by
    rw [decode_eq, decode_eq, ← hop]
    exact commandOf_congr formatAB rawAmp whole
  rw [same]

/-- Settles O1: the opcode and the arguments are the fields of the word they make. -/
theorem opcodeMapAndOperandAssembly : Obligations.OpcodeMapAndOperandAssembly := by
  intro a1 a0
  have spells (op : BitVec 4) : decode (op ++ a1 ++ a0) = commandOf op a1 a0 := decode_mkWord op a1 a0
  rw [← rawAmpField_eq, ← asSigned32_eq]
  exact ⟨spells _, spells _, spells _, spells _, spells _, spells _, spells _, spells _, spells _, spells _, spells _,
    spells _, spells _, spells _, spells _, spells _⟩

/-- Settles O2: the words are closed, and the decoder runs on them. -/
theorem specWordsDecode : Obligations.SpecWordsDecode := by
  unfold Obligations.SpecWordsDecode
  decide

/-- Settles O3: the two cases of the length check, which every decoder passes on. -/
theorem onlyLongerPatternsAreRefused : Obligations.OnlyLongerPatternsAreRefused := by
  intro nbits w
  refine ⟨fun h => ?_, fun h => ?_⟩
  · simp [decodeTableWord, decodeBits, commandWordOfBits_of_lt h]
  · simp [decodeTableWord, decodeBits, commandWordOfBits_of_le h]

end Sys2Proof.Proofs
end

section
/-! Commands that are rejected or record ILLEGAL (30_encoding.md R86, R90, 60_exceptions.md R202): a rejected
selector leaves the state as it is. -/

namespace Sys2Proof.Machine

theorem exec_setWave_of_lt {sel : Word} (h : 4 < sel.toNat) (s : State) : exec (.setWave sel) s = .next s := by
  rw [exec_eq, effectOf, waveformOfSel_eq_none h]

theorem exec_setRes_of_lt {sel : Word} (h : 2 < sel.toNat) (s : State) : exec (.setRes sel) s = .next s := by
  rw [exec_eq, effectOf, resolutionOfSel_eq_none h]

theorem exec_setInterp_of_lt {sel : Word} (h : 2 < sel.toNat) (s : State) : exec (.setInterp sel) s = .next s := by
  rw [exec_eq, effectOf, interpOfSel_eq_none h]

/-- The number that a selector of two parts is. -/
theorem toNat_selector (hi : BitVec 24) (lo : BitVec 8) : (hi ++ lo).toNat = hi.toNat * 2 ^ 8 + lo.toNat := by
  rw [BitVec.toNat_append, Nat.shiftLeft_eq, Nat.mul_comm, Nat.two_pow_add_eq_or_of_lt lo.isLt]

/-- A selector with a high bit set is above every code of 8 bits, whatever its low bits (R86). -/
theorem le_toNat_selector {hi : BitVec 24} (h : hi ≠ 0) (lo : BitVec 8) : 2 ^ 8 ≤ (hi ++ lo).toNat := by
  have pos : hi.toNat ≠ 0 := fun e => h (BitVec.eq_of_toNat_eq e)
  rw [toNat_selector]
  omega

/-- A selector with no high bit set is its low part. -/
theorem lt_toNat_selector {lo : BitVec 8} {k : Nat} (h : k < lo.toNat) : k < ((0 : BitVec 24) ++ lo).toNat := by
  rw [toNat_selector]
  exact Nat.lt_add_left _ h

end Sys2Proof.Machine

namespace Sys2Proof.Proofs

open Sys2Proof.Machine Sys2Proof.Safety

/-- Settles O17: a selector with a high bit set, or with too large a low part, is above every code. -/
theorem rejectedSelectorsChangeNothing : Obligations.RejectedSelectorsChangeNothing := by
  intro hi lo s
  refine ⟨fun hhi => ?_, ?_, ?_⟩
  · have large := le_toNat_selector hhi lo
    exact ⟨exec_setWave_of_lt (by omega) s, exec_setRes_of_lt (by omega) s, exec_setInterp_of_lt (by omega) s⟩
  · rintro rfl hlo
    exact exec_setWave_of_lt (lt_toNat_selector hlo) s
  · rintro rfl hlo
    exact ⟨exec_setRes_of_lt (lt_toNat_selector hlo) s, exec_setInterp_of_lt (lt_toNat_selector hlo) s⟩

/-- Settles O22: `raise Fault(ILLEGAL)` writes `err` alone, and bit 1 of the result is set. -/
theorem reservedOpcodesOnlySetIllegal : Obligations.ReservedOpcodesOnlySetIllegal := by
  intro s
  have records : raiseFault .illegal s = { s with err := s.err ||| 0b10 } := raiseFault_eq .illegal s
  have nonzero : s.err ||| 0b10 ≠ 0 := by simp [BitVec.or_eq_zero_iff]
  refine ⟨?_, ?_, ?_, decide_eq_true nonzero⟩ <;> rw [← records, exec_eq, effectOf]

end Sys2Proof.Proofs
end

section
/-! The texts of numbers (30_encoding.md R87): the digits that the library writes are those the assembler
reads. -/

namespace Sys2Proof.Machine

/-- The assembler reads the digit that the library writes. -/
@[simp] theorem digitValue_digitChar {d : Nat} (hd : d < 16) : digitValue d.digitChar = some d := by
  have all : ∀ d : Fin 16, digitValue d.val.digitChar = some d.val := by decide
  exact all ⟨d, hd⟩

/-- One more digit after a text that reads as a number. -/
theorem digitsFrom_concat {base acc m d : Nat} {t : List Char} (ht : digitsFrom base acc t = some m) (hd : d < base)
    (hbase : base ≤ 16) : digitsFrom base acc (t ++ [d.digitChar]) = some (base * m + d) := by
  induction t generalizing acc with
  | nil =>
    cases ht
    simp [digitsFrom, digitValue_digitChar (hd.trans_le hbase), hd]
  | cons c cs ih =>
    simp only [digitsFrom, List.cons_append] at ht ⊢
    split at ht
    · split at ht
      · next hc => simpa [hc] using ih ht
      · cases ht
    · cases ht

/-- A number reads back from its digits in a base, by induction on its last digit. -/
theorem digitsFrom_toDigits {base : Nat} (hb : 1 < base) (hbase : base ≤ 16) (n : Nat) :
    digitsFrom base 0 (Nat.toDigits base n) = some n := by
  induction n using Nat.strongRecOn with
  | ind n ih =>
    rcases Nat.lt_or_ge n base with hn | hn
    · rw [Nat.toDigits_of_lt_base hn]
      simpa using digitsFrom_concat (acc := 0) (t := []) rfl hn hbase
    · rw [Nat.toDigits_of_base_le hb hn, digitsFrom_concat (ih _ (Nat.div_lt_self (by omega) hb))
        (Nat.mod_lt n (by omega)) hbase, Nat.div_add_mod]

theorem digits_of_ne_nil {base : Nat} {t : List Char} (ht : t ≠ []) : digits base t = digitsFrom base 0 t := by
  cases t with
  | nil => exact absurd rfl ht
  | cons => rfl

theorem digits_toDigits {base : Nat} (hb : 1 < base) (hbase : base ≤ 16) (n : Nat) :
    digits base (Nat.toDigits base n) = some n := by
  rw [digits_of_ne_nil Nat.toDigits_ne_nil, digitsFrom_toDigits hb hbase]

/-- A text of decimal digits does not begin with the mark of a hex integer: `x` is no digit. -/
theorem number_of_digits {t : List Char} {n : Nat} (h : digits 10 t = some n) : number t = some n := by
  unfold number
  split
  · simp [digits, digitsFrom, show digitValue '0' = some 0 by decide, show digitValue 'x' = none by decide] at h
  · exact h

theorem number_decimal (n : Nat) : number (Nat.toDigits 10 n) = some n :=
  number_of_digits (digits_toDigits (by decide) (by decide) n)

theorem number_hex (n : Nat) : number ('0' :: 'x' :: Nat.toDigits 16 n) = some n :=
  digits_toDigits (by decide) (by decide) n

/-! ### Operands -/

theorem fieldNumber_of_lt {bits n : Nat} {t : List Char} (h : number t = some n) (hn : n < 2 ^ bits) :
    fieldNumber bits t = some n := by
  simp [fieldNumber, h, Option.filter, hn]

theorem fieldNumber_of_le {bits n : Nat} {t : List Char} (h : number t = some n) (hn : 2 ^ bits ≤ n) :
    fieldNumber bits t = none := by
  simp [fieldNumber, h, Option.filter, hn]

theorem operand32_of_lt {n : Nat} {t : List Char} (h : number t = some n) (hn : n < 2 ^ 32) :
    operand32 t = some (BitVec.ofNat 32 n) := by
  rw [operand32, fieldNumber_of_lt h hn, Option.map_some]

/-- `SET_FREQ_HZ` takes a frequency of 16 bits to Q16.16 (R88). -/
theorem integerHz_of_lt {f : Nat} {t : List Char} (h : number t = some f) (hf : f < 2 ^ 16) :
    integerHz t = some (BitVec.ofNat 32 (f * 65536)) := by
  rw [integerHz, fieldNumber_of_lt h hf, Option.map_some]

theorem integerHz_of_le {f : Nat} {t : List Char} (h : number t = some f) (hf : 2 ^ 16 ≤ f) : integerHz t = none := by
  rw [integerHz, fieldNumber_of_le h hf, Option.map_none]

/-! ### Commands -/

/-- The word of a format AB command whose operands read. -/
theorem lineAB_of_some {op : BitVec 4} {read : List Char → Option Word} {a b : List Char} {u v : Word}
    (ha : read a = some u) (hb : operand32 b = some v) : lineAB op read [a, b] = some [mkWord op v u] := by
  simp [lineAB, ha, hb]

theorem lineAB_of_none {op : BitVec 4} {read : List Char → Option Word} {a : List Char} (b : List Char)
    (ha : read a = none) : lineAB op read [a, b] = none := by
  simp [lineAB, ha]

/-- `TICK n` is `n` words of `NEXT_SAMPLE` (R88). -/
theorem lineTick_of_pos {n : Nat} {t : List Char} (h : number t = some n) (hn : 1 ≤ n) :
    lineTick [t] = some (List.replicate n (mkWord 0xC 0 0)) := by
  simp [lineTick, h, Option.filter, hn]

theorem lineTick_zero {t : List Char} (h : number t = some 0) : lineTick [t] = none := by
  simp [lineTick, h, Option.filter]

/-! ### Texts of one command, its mnemonic and the blank after it in one string -/

section Command

variable {text t u : String} {m : List Char} {n k : Nat}

theorem assemble_one (htext : text.toList = m ++ [' ']) (hm : m ≠ []) (pm : m.all isPlain = true)
    (ht : number t.toList = some n) : assemble (text ++ t) = lineWords m [t.toList] := by
  have plainm := List.all_eq_true.1 pm
  obtain ⟨net, plaint⟩ := number_isPlain ht
  have line : (text ++ t).toList = m ++ ' ' :: t.toList := by simp [htext]
  rw [assemble_line, line, assembleLine_one hm net plainm plaint]
  simp [line, (not_mem_of_isPlain plainm).2, (not_mem_of_isPlain plaint).2]

theorem assemble_two (htext : text.toList = m ++ [' ']) (hm : m ≠ []) (pm : m.all isPlain = true)
    (ht : number t.toList = some n) (hu : number u.toList = some k) :
    assemble (text ++ t ++ ", " ++ u) = lineWords m [t.toList, u.toList] := by
  have plainm := List.all_eq_true.1 pm
  obtain ⟨net, plaint⟩ := number_isPlain ht
  obtain ⟨neu, plainu⟩ := number_isPlain hu
  have line : (text ++ t ++ ", " ++ u).toList = m ++ ' ' :: (t.toList ++ [',', ' '] ++ u.toList) := by simp [htext]
  rw [assemble_line, line, assembleLine_two hm net neu plainm plaint plainu]
  simp [line, (not_mem_of_isPlain plainm).2, (not_mem_of_isPlain plaint).2, (not_mem_of_isPlain plainu).2]

theorem assemble_setFreqHz (ht : number t.toList = some n) (hu : number u.toList = some k) :
    assemble ("SET_FREQ_HZ " ++ t ++ ", " ++ u) = lineAB 0x1 integerHz [t.toList, u.toList] := by
  rw [assemble_two (m := "SET_FREQ_HZ".toList) (by decide) (by decide) (by decide) ht hu, lineWords_setFreqHz]

theorem assemble_setFreq (ht : number t.toList = some n) (hu : number u.toList = some k) :
    assemble ("SET_FREQ " ++ t ++ ", " ++ u) = lineAB 0x1 operand32 [t.toList, u.toList] := by
  rw [assemble_two (m := "SET_FREQ".toList) (by decide) (by decide) (by decide) ht hu, lineWords_setFreq]

theorem assemble_tick (ht : number t.toList = some n) : assemble ("TICK " ++ t) = lineTick [t.toList] := by
  rw [assemble_one (m := "TICK".toList) (by decide) (by decide) (by decide) ht, lineWords_tick]

end Command

/-! ### Texts of several lines -/

/-- Pieces without the separator come back from the text that joins them. -/
theorem splitAt_intercalate {sep : Char} {ls : List (List Char)} (hne : ls ≠ []) (h : ∀ l ∈ ls, sep ∉ l) :
    splitAt sep ([sep].intercalate ls) = ls := by
  induction ls with
  | nil => exact absurd rfl hne
  | cons l ls ih =>
    obtain ⟨hl, hls⟩ := List.forall_mem_cons.1 h
    by_cases ne : ls = []
    · rw [ne, List.intercalate_singleton, splitAt_of_not_mem hl]
    · rw [List.intercalate_cons_of_ne_nil ne, List.append_assoc, List.singleton_append, splitAt_append hl, ih ne hls]

/-- The words of lines that each assemble to one word. -/
theorem assembleLines_replicate {l : List Char} {w : CommandWord} (h : assembleLine l = some [w]) (n : Nat) :
    assembleLines (List.replicate n l) = some (List.replicate n w) := by
  induction n with
  | zero => rfl
  | succ n ih => simp [List.replicate_succ, assembleLines_cons, h, ih]

/-- One line written `n` times. -/
theorem assemble_replicate {line : String} {w : CommandWord} (hline : '\n' ∉ line.toList)
    (h : assembleLine line.toList = some [w]) {n : Nat} (hn : 1 ≤ n) :
    assemble ("\n".intercalate (List.replicate n line)) = some (List.replicate n w) := by
  have lines : splitAt '\n' (['\n'].intercalate (List.replicate n line.toList)) = List.replicate n line.toList :=
    splitAt_intercalate (by simpa using Nat.ne_of_gt hn)
      (fun l hl => by rwa [List.eq_of_mem_replicate hl])
  have newline : "\n".toList = ['\n'] := by decide
  rw [assemble, String.toList_intercalate, List.map_replicate, newline, lines, assembleLines_replicate h]

theorem assembleLine_nextSample : assembleLine "NEXT_SAMPLE".toList = some [mkWord 0xC 0 0] := by decide

end Sys2Proof.Machine

namespace Sys2Proof.Proofs

open Sys2Proof.Machine

/-- Settles O59: each operand reads as its number, and each line assembles by the form of its mnemonic. -/
theorem pseudoCommandsExpand : Obligations.PseudoCommandsExpand := by
  refine ⟨fun n => ⟨number_decimal n, number_hex n⟩, ?_, by decide, by decide, by decide, by decide, ?_⟩
  · intro ft gt rt f r hf hg hr hr32
    rw [assemble_setFreqHz hf hr, assemble_setFreq hg hr]
    have rate := operand32_of_lt hr hr32
    refine ⟨fun h => ⟨?_, ?_⟩, fun h => ?_⟩
    · exact lineAB_of_some (integerHz_of_lt hf (by omega)) rate
    · exact lineAB_of_some (operand32_of_lt hg (by omega)) rate
    · exact lineAB_of_none _ (integerHz_of_le hf (by omega))
  · intro nt n hn
    have word : mkWord 0xC 0 0 = 0xC0000000000000000 := by decide
    rw [assemble_tick hn, ← word]
    refine ⟨fun h => ⟨lineTick_of_pos hn h, assemble_replicate (by decide) assembleLine_nextSample h⟩, ?_⟩
    rintro rfl
    exact lineTick_zero hn

/-- Settles O7: the texts are closed, and the assembler runs on them. -/
theorem assemblerTextForms : Obligations.AssemblerTextForms := by
  unfold Obligations.AssemblerTextForms
  decide

end Sys2Proof.Proofs
end

section
/-! The configuration commands (40_configuration.md R100 to R111): what each loads, operation by operation. -/

namespace Sys2Proof.Machine

/-! ### The increment (R101, R102) -/

/-- Whole turns of the phase leave no trace in the increment (R101). -/
theorem ofNat_roundHalfUp_add_turns (n k : Nat) {d : Nat} (hd : 0 < d) :
    BitVec.ofNat 32 (roundHalfUp (n + k * 2 ^ 32 * d) d) = BitVec.ofNat 32 (roundHalfUp n d) := by
  apply BitVec.eq_of_toNat_eq
  rw [roundHalfUp_add n (k * 2 ^ 32) hd, BitVec.toNat_ofNat, BitVec.toNat_ofNat, Nat.add_mul_mod_self_right]

/-- A whole number of turns is increment 0. -/
theorem ofNat_roundHalfUp_turns (k : Nat) {d : Nat} (hd : 0 < d) :
    BitVec.ofNat 32 (roundHalfUp (k * 2 ^ 32 * d) d) = 0 := by
  simpa using ofNat_roundHalfUp_add_turns 0 k hd

theorem exec_setFreq (f r : Word) (s : State) :
    exec (.setFreq f r) s = .next (loadIncrement r (f.toNat * 2 ^ 16) r.toNat s) := exec_eq _ s

theorem exec_setNote (note r : Word) (s : State) :
    exec (.setNote note r) s = .next (loadIncrement r (note.toNat * 2 ^ 32) (100 * r.toNat) s) := exec_eq _ s

/-- The increment that `SET_FREQ` loads (R101). -/
theorem exec_setFreq_of_ne_zero {f r inc : Word} (hr : r ≠ 0)
    (hinc : BitVec.ofNat 32 (roundHalfUp (f.toNat * 2 ^ 16) r.toNat) = inc) (s : State) :
    exec (.setFreq f r) s = .next { s with phaseInc := inc } := by
  rw [exec_setFreq, loadIncrement_pos hr, hinc]

/-- The increment that `SET_NOTE` loads (R102). -/
theorem exec_setNote_of_ne_zero {note r inc : Word} (hr : r ≠ 0)
    (hinc : BitVec.ofNat 32 (roundHalfUp (note.toNat * 2 ^ 32) (100 * r.toNat)) = inc) (s : State) :
    exec (.setNote note r) s = .next { s with phaseInc := inc } := by
  rw [exec_setNote, loadIncrement_pos hr, hinc]

/-- The register keeps the low 32 bits of the rounded quotient, which the rules write out (R14, R101). -/
theorem ofNat_roundHalfUp (n d : Nat) :
    BitVec.ofNat 32 (roundHalfUp n d) = BitVec.ofNat 32 ((2 * n + d) / (2 * d) % 2 ^ 32) := by
  apply BitVec.eq_of_toNat_eq
  rw [BitVec.toNat_ofNat, BitVec.toNat_ofNat, Nat.mod_mod, roundHalfUp]

/-- A nonzero rate is a positive divisor. -/
theorem toNat_pos_of_ne_zero {r : Word} (hr : r ≠ 0) : 0 < r.toNat :=
  Nat.pos_of_ne_zero fun h => hr (BitVec.eq_of_toNat_eq h)

/-- Where `note / 100` is a Q16.16 number, both quotients are one, its terms scaled by 100 (R102). -/
theorem exec_setNote_eq_setFreq {note f : Word} (h : 100 * f.toNat = note.toNat * 2 ^ 16) (r : Word) (s : State) :
    exec (.setNote note r) s = exec (.setFreq f r) s := by
  have scaled : note.toNat * 2 ^ 32 = f.toNat * 2 ^ 16 * 100 := by omega
  rw [exec_setNote, exec_setFreq, loadIncrement, loadIncrement, scaled, Nat.mul_comm 100 r.toNat,
    roundHalfUp_mul _ _ (by decide)]

/-! ### The amplitude (R103, R104) -/

/-- Amplitude 0 silences every value (R103). -/
@[simp] theorem scale_zero_amplitude (v : Int) : scale 0 v = 0 := by
  simp [scale]

theorem exec_setAmpPct (p : Int) (s : State) :
    exec (.setAmpPct p) s = .next { s with amplitude := amplitudeOfPercent p } := exec_eq _ s

theorem clampInt_of_lt {v lo : Int} (h : v < lo) (hi : Int) : clampInt v lo hi = lo := if_pos h

theorem clampInt_of_gt {v lo hi : Int} (hle : lo ≤ hi) (h : hi < v) : clampInt v lo hi = hi := by
  rw [clampInt, if_neg (hle.trans_lt h).not_gt, if_pos h]

theorem clampInt_eq_max_min (v : Int) {lo hi : Int} (h : lo ≤ hi) : clampInt v lo hi = max lo (min v hi) := by
  rw [clampInt]
  split_ifs <;> omega

theorem clampInt_mono {v w lo hi : Int} (h : lo ≤ hi) (hvw : v ≤ w) : clampInt v lo hi ≤ clampInt w lo hi := by
  rw [clampInt_eq_max_min v h, clampInt_eq_max_min w h]
  exact max_le_max_left lo (min_le_min_right hi hvw)

theorem roundHalfUp_mono {n m : Nat} (h : n ≤ m) (d : Nat) : roundHalfUp n d ≤ roundHalfUp m d :=
  Nat.div_le_div_right (by omega)

/-- The clamp bounds the rounded value by full scale, so the register holds it whole (R104). -/
theorem toNat_amplitudeOfPercent (p : Int) :
    (amplitudeOfPercent p).toNat = roundHalfUp (255 * (clampInt p 0 100).toNat) 100 := by
  obtain ⟨-, high⟩ := clampInt_mem_Icc p (show (0 : Int) ≤ 100 by decide)
  have full : roundHalfUp (255 * (clampInt p 0 100).toNat) 100 ≤ 255 := roundHalfUp_mono (m := 255 * 100) (by omega) 100
  exact Nat.mod_eq_of_lt (Nat.lt_succ_of_le full)

theorem toNat_amplitudeOfPercent_mono {p q : Int} (h : p ≤ q) :
    (amplitudeOfPercent p).toNat ≤ (amplitudeOfPercent q).toNat := by
  have clamped := clampInt_mono (show (0 : Int) ≤ 100 by decide) h
  rw [toNat_amplitudeOfPercent, toNat_amplitudeOfPercent]
  exact roundHalfUp_mono (by omega) 100

/-- The rounding of R104 on integers: after the clamp nothing is negative. -/
theorem amplitudeOfPercent_eq (p : Int) :
    amplitudeOfPercent p = BitVec.ofInt 8 ((2 * (255 * max 0 (min p 100)) + 100) / 200) := by
  obtain ⟨low, -⟩ := clampInt_mem_Icc p (show (0 : Int) ≤ 100 by decide)
  rw [← clampInt_eq_max_min p (by decide), amplitudeOfPercent, ← BitVec.ofInt_natCast, roundHalfUp]
  congr 1
  omega

theorem amplitudeOfPercent_of_neg {p : Int} (h : p < 0) : amplitudeOfPercent p = 0 := by
  rw [amplitudeOfPercent, clampInt_of_lt h]
  decide

theorem amplitudeOfPercent_of_gt {p : Int} (h : 100 < p) : amplitudeOfPercent p = 255 := by
  rw [amplitudeOfPercent, clampInt_of_gt (by decide) h]
  decide

/-! ### The selectors (R105 to R107) -/

theorem exec_setWave_of_some {sel : Word} {w : Waveform} (h : waveformOfSel sel = some w) (s : State) :
    exec (.setWave sel) s = .next { s with waveform := w } := by
  rw [exec_eq, effectOf, h]
  rfl

theorem exec_setRes_of_some {sel : Word} {r : Resolution} (h : resolutionOfSel sel = some r) (s : State) :
    exec (.setRes sel) s = .next { s with resolution := r, phaseAcc := 0 } := by
  rw [exec_eq, effectOf, h]
  rfl

theorem exec_setInterp_of_some {sel : Word} {m : InterpMode} (h : interpOfSel sel = some m) (s : State) :
    exec (.setInterp sel) s = .next { s with interp := m } := by
  rw [exec_eq, effectOf, h]
  rfl

/-- In C8_256 no path looks at the mode: the 256-sample lookup never interpolates (R107, R154). -/
theorem sample_interp_of_c8_256 (env : Config.Env) {s : State} (hr : s.resolution = .c8_256) (m : InterpMode)
    (acc : Word) : sample env { s with interp := m } acc = sample env s acc := by
  by_cases hw : s.waveform = .user
  · by_cases hf : s.userFn = 0
    · rw [sample_user_none env hw hf, sample_user_none env (s := { s with interp := m }) hw hf]
    · rw [sample_user env hw hf, sample_user env (s := { s with interp := m }) hw hf]
  · obtain ⟨kind, hk⟩ := tableKind_isSome hw
    rw [sample_table env hk, sample_table env (s := { s with interp := m }) hk, hr, classValue_c8_256,
      classValue_c8_256]

/-! ### The frozen phase (R110, R111) -/

/-- With increment 0 a second `NEXT_SAMPLE` finds the phase, and so the sample, of the first (R111, R150). -/
theorem nextSampleIn_nextSampleIn (env : Config.Env) {s : State} (hinc : s.phaseInc = 0) :
    nextSampleIn env (nextSampleIn env s) = nextSampleIn env s := by
  have phase : (nextSampleIn env s).phaseAcc + (nextSampleIn env s).phaseInc = s.phaseAcc + s.phaseInc := by
    simp [hinc]
  have same : sample env (nextSampleIn env s) (s.phaseAcc + s.phaseInc) = sample env s (s.phaseAcc + s.phaseInc) :=
    sample_congr env _ rfl rfl rfl rfl rfl
  rw [nextSampleIn_eq env (nextSampleIn env s), phase, same, nextSampleIn_eq]

end Sys2Proof.Machine

namespace Sys2Proof.Proofs

open Sys2Proof.Machine

/-- Settles O10: each corner case is a rounding, and a turn of `100 * rate` hundredths is increment 0. -/
theorem setNoteLoadsRoundedIncrement : Obligations.SetNoteLoadsRoundedIncrement := by
  intro note r s
  refine ⟨?_, fun hr => exec_setNote_of_ne_zero hr (ofNat_roundHalfUp _ _) s, fun hr => ?_, fun hr h => ?_,
    fun f h => exec_setNote_eq_setFreq h r s, exec_setNote_of_ne_zero (by decide) (by decide) s⟩
  · rintro rfl
    rw [exec_setNote, loadIncrement_zero, raiseFault_eq, faultBit]
  · exact exec_setNote_of_ne_zero hr (by simp) s
  · have turn : note.toNat * 2 ^ 32 = 1 * 2 ^ 32 * (100 * r.toNat) := by omega
    have pos := toNat_pos_of_ne_zero hr
    exact exec_setNote_of_ne_zero hr (turn ▸ ofNat_roundHalfUp_turns 1 (by omega)) s

/-- Settles O11: `k` sample rates are `k` whole turns of the phase. -/
theorem frequencyIsModuloSampleRate : Obligations.FrequencyIsModuloSampleRate := by
  intro f g r k s hr hg
  have turns : g.toNat * 2 ^ 16 = f.toNat * 2 ^ 16 + k * 2 ^ 32 * r.toNat := by rw [hg]; ring
  rw [exec_setFreq, exec_setFreq, loadIncrement_pos hr, loadIncrement_pos hr, turns,
    ofNat_roundHalfUp_add_turns _ k (toNat_pos_of_ne_zero hr)]

/-- Settles O13: the amplitude does not depend on the state, so the command is idempotent, and the clamp and
the rounding keep the order. -/
theorem setAmpPctClampsAndRounds : Obligations.SetAmpPctClampsAndRounds := by
  intro p q s
  have stores {p : Int} {a : BitVec 8} (h : amplitudeOfPercent p = a) :
      exec (.setAmpPct p) s = .next { s with amplitude := a } := h ▸ exec_setAmpPct p s
  exact ⟨stores (amplitudeOfPercent_eq p), fun h => stores (amplitudeOfPercent_of_neg h),
    fun h => stores (amplitudeOfPercent_of_gt h), stores (by decide), stores (by decide), stores (by decide),
    stores (by decide), stores (by decide),
    fun h => ⟨_, _, exec_setAmpPct p s, exec_setAmpPct q s, toNat_amplitudeOfPercent_mono h⟩,
    _, exec_setAmpPct p s, exec_setAmpPct p _⟩

/-- Settles O9: each corner case is a rounding, and a frequency equal to the rate is one turn. -/
theorem setFreqLoadsRoundedIncrement : Obligations.SetFreqLoadsRoundedIncrement := by
  intro f r s
  refine ⟨?_, fun hr => exec_setFreq_of_ne_zero hr (ofNat_roundHalfUp _ _) s, fun hr => ?_, fun hr h => ?_,
    exec_setFreq_of_ne_zero (by decide) (by decide) s, exec_setFreq_of_ne_zero (by decide) (by decide) s,
    exec_setFreq_of_ne_zero (by decide) (by decide) s⟩
  · rintro rfl
    rw [exec_setFreq, loadIncrement_zero, raiseFault_eq, faultBit]
  · exact exec_setFreq_of_ne_zero hr (by simp) s
  · have turn : f.toNat * 2 ^ 16 = 1 * 2 ^ 32 * r.toNat := by omega
    exact exec_setFreq_of_ne_zero hr (turn ▸ ofNat_roundHalfUp_turns 1 (toNat_pos_of_ne_zero hr)) s

/-- Settles O8: the writes of `initialize`, which do not depend on what they replace. -/
theorem initWritesInitialValues : Obligations.InitWritesInitialValues := fun s =>
  ⟨exec_eq .init s, exec_eq .init _⟩

/-- Settles O12: the operand is `arg0[7:0]`, whatever the rest of the word. -/
theorem setAmpRawStoresLowByte : Obligations.SetAmpRawStoresLowByte := by
  refine ⟨fun v s => exec_eq (.setAmpRaw v) s, fun a1 a0 s => ?_, scale_zero_amplitude⟩
  have spells : decode (0x3#4 ++ a1 ++ a0) = .setAmpRaw (rawAmpField a0) := decode_mkWord 0x3 a1 a0
  rw [spells, rawAmpField_eq, exec_eq, effectOf, State.setAmplitude]

/-- Settles O14: the five selectors that name a kind, and the rest. -/
theorem setWaveStoresOrRejects : Obligations.SetWaveStoresOrRejects := fun _ s =>
  ⟨exec_setWave_of_some rfl s, exec_setWave_of_some rfl s, exec_setWave_of_some rfl s, exec_setWave_of_some rfl s,
    exec_setWave_of_some rfl s, fun h => exec_setWave_of_lt h s⟩

/-- Settles O15: the three selectors that name a class, and the rest. -/
theorem setResStoresAndRestartsPhase : Obligations.SetResStoresAndRestartsPhase := fun _ s =>
  ⟨exec_setRes_of_some rfl s, exec_setRes_of_some rfl s, exec_setRes_of_some rfl s, fun h => exec_setRes_of_lt h s⟩

/-- Settles O16: the three selectors that name a mode, the rest, and the class that never interpolates. -/
theorem setInterpStoresOrRejects : Obligations.SetInterpStoresOrRejects := fun _ s =>
  ⟨exec_setInterp_of_some rfl s, exec_setInterp_of_some rfl s, exec_setInterp_of_some rfl s,
    fun h => exec_setInterp_of_lt h s, fun hr env m acc => sample_interp_of_c8_256 env hr m acc⟩

/-- Settles O18: the two writes of the command, in every state. -/
theorem setUserWaveAttaches : Obligations.SetUserWaveAttaches := fun h s => exec_eq (.setUserWave h) s

/-- Settles O19: the two writes of the command, in every state. -/
theorem clearUserWaveDetaches : Obligations.ClearUserWaveDetaches := fun s => exec_eq .clearUserWave s

/-- Settles O20: the one write of the command, for every operand. -/
theorem setUserIncOverrides : Obligations.SetUserIncOverrides := fun inc s => exec_eq (.setUserInc inc) s

/-- Settles O21: with phase and increment 0 the phase stays 0, and a second sample repeats the first. -/
theorem silenceFreezesPhase : Obligations.SilenceFreezesPhase := by
  intro s
  refine ⟨exec_eq .silence s, _, exec_eq .nextSample _, BitVec.add_zero 0, ?_⟩
  rw [exec_eq, effectOf, effectOf, nextSampleIn_nextSampleIn Config.env rfl]

end Sys2Proof.Proofs
end

section
/-! The arithmetic of a sample, written out as 41_sample_production.md writes it: scaling (R163), linear
interpolation (R159, R165) and the clamped quadratic with its floors (R160 to R162). -/

namespace Sys2Proof.Machine

open Config (Env)

/-- `Scale` as a floor division (R163). -/
theorem scale_eq (amp : BitVec 8) (v : Int) : scale amp v = v * amp.toNat / 256 := rfl

/-- On a value that is not negative the floor is the natural quotient. -/
theorem scale_natCast (amp : BitVec 8) (v : Nat) : scale amp v = (v * amp.toNat / 256 : Nat) := by
  rw [scale_eq]
  norm_cast

/-- Full amplitude takes one part in 256, rounded up (R163). -/
theorem scale_full (v : Nat) : scale 255 v = (v : Int) - ((v + 255) / 256 : Nat) := by
  have full : (255 : BitVec 8).toNat = 255 := rfl
  rw [scale_natCast, full]
  omega

/-- `Lin` as a floor division (R159). -/
theorem linear_eq (a b f : Int) : linear a b f = a + (b - a) * f / 1024 := rfl

@[simp] theorem linear_zero (a b : Int) : linear a b 0 = a := by
  simp [linear]

/-- `y` of R160 as floor divisions. -/
theorem quadraticRaw_eq (p0 p1 p2 f : Int) :
    quadraticRaw p0 p1 p2 f = p1 + (p2 - p0) * f / 2048 + (p0 - 2 * p1 + p2) * (f * f / 1024) / 2048 := rfl

/-- `Quad` as a clamp by `max` and `min` (R160). -/
theorem quadratic_eq {top : Int} (htop : 0 ≤ top) (p0 p1 p2 f : Int) :
    quadratic top p0 p1 p2 f = max 0 (min (quadraticRaw p0 p1 p2 f) top) :=
  clampInt_eq_max_min _ htop

/-- At fraction 0 the quadratic is at its middle entry, one ahead (R161). -/
theorem quadratic_zero {top p1 : Int} (hp : 0 ≤ p1) (hp' : p1 ≤ top) (p0 p2 : Int) :
    quadratic top p0 p1 p2 0 = p1 := by
  have raw : quadraticRaw p0 p1 p2 0 = p1 := by simp [quadraticRaw]
  rw [quadratic_eq (hp.trans hp'), raw, min_eq_left hp', max_eq_right hp]

/-- The three floors of R160 are all that separates `y` from the parabola: two lose less than a unit of
`2^11` each, and the one inside the curvature term less than a unit of `2^10`. -/
theorem quadraticRaw_sub_parabola (p0 p1 p2 t : Int) :
    ∃ r q c : Int, (0 ≤ r ∧ r < 2 ^ 11) ∧ (0 ≤ q ∧ q < 2 ^ 11) ∧ (0 ≤ c ∧ c < 2 ^ 10) ∧
      quadraticRaw p0 p1 p2 t * 2 ^ 21 - (p1 * 2 ^ 21 + (p2 - p0) * t * 2 ^ 10 + (p0 - 2 * p1 + p2) * t ^ 2) =
        -(r * 2 ^ 10 + q * 2 ^ 10 + (p0 - 2 * p1 + p2) * c) := by
  obtain ⟨slopeLow, slopeHigh⟩ := shiftRight_bounds ((p2 - p0) * t) 11
  obtain ⟨squareLow, squareHigh⟩ := shiftRight_bounds (t * t) 10
  obtain ⟨curveLow, curveHigh⟩ := shiftRight_bounds ((p0 - 2 * p1 + p2) * shiftRight (t * t) 10) 11
  refine ⟨(p2 - p0) * t - shiftRight ((p2 - p0) * t) 11 * 2 ^ 11,
    (p0 - 2 * p1 + p2) * shiftRight (t * t) 10 -
      shiftRight ((p0 - 2 * p1 + p2) * shiftRight (t * t) 10) 11 * 2 ^ 11,
    t * t - shiftRight (t * t) 10 * 2 ^ 10, by omega, by omega, by omega, ?_⟩
  rw [quadraticRaw]
  ring

/-- So the floors together move the value, times `2^21`, by less than the bound of the statement (R161). -/
theorem abs_quadraticRaw_sub_parabola_lt (p0 p1 p2 t : Int) :
    |quadraticRaw p0 p1 p2 t * 2 ^ 21 - (p1 * 2 ^ 21 + (p2 - p0) * t * 2 ^ 10 + (p0 - 2 * p1 + p2) * t ^ 2)| <
      2 ^ 22 + |p0 - 2 * p1 + p2| * 2 ^ 10 := by
  obtain ⟨r, q, c, hr, hq, hc, diff⟩ := quadraticRaw_sub_parabola p0 p1 p2 t
  have curve : |(p0 - 2 * p1 + p2) * c| ≤ |p0 - 2 * p1 + p2| * 2 ^ 10 :=
    abs_mul_le le_rfl (abs_le.2 ⟨by omega, by omega⟩)
  obtain ⟨low, high⟩ := abs_le.1 curve
  rw [diff, abs_neg, abs_lt]
  constructor <;> omega

/-- The phase `i * 2^22` is at entry `i`, counted modulo the table's length (R165). -/
theorem index1024_ofNat_entry (i : Nat) : index1024 (BitVec.ofNat 32 (i * 2 ^ 22)) = i % 1024 := by
  rw [index1024_eq, BitVec.toNat_ofNat]
  omega

/-- An entry's own phase has fraction 0 (R165). -/
theorem fraction_ofNat_entry (i : Nat) : fraction (BitVec.ofNat 32 (i * 2 ^ 22)) = 0 := by
  rw [fraction_eq, BitVec.toNat_ofNat]
  omega

/-- An 8-bit table gives a sample of at most 254 (R31, R163). -/
theorem sample_le_of_8bit (env : Env) {s : State} (hw : s.waveform ≠ .user) (hr : s.resolution ≠ .c16_1024)
    (acc : Word) : sample env s acc ≤ 254 := by
  obtain ⟨kind, hk⟩ := tableKind_isSome hw
  have depth : maxEntry s.resolution = 255 := by
    cases h : s.resolution
    case c16_1024 => exact absurd h hr
    all_goals rfl
  obtain ⟨-, high⟩ := classValue_mem_Icc env s.resolution s.interp kind acc
  rw [sample_table env hk]
  exact scale_le_scale_of_le _ (by decide) (high.trans_eq depth)

end Sys2Proof.Machine

namespace Sys2Proof.Proofs

open Sys2Proof.Machine

/-- Settles O30: the floor of the product, and its order in both factors. -/
theorem scaleIsFloorOfProduct : Obligations.ScaleIsFloorOfProduct := fun amp v =>
  ⟨scale_natCast amp v,
    fun hv => scale_le_scale_of_le amp (top := 255) (by decide) (by omega),
    fun hv => scale_le_scale_of_le amp (top := 65535) (by decide) (by omega),
    scale_full v, scale_zero_amplitude v⟩

/-- Settles O31: the value lies in the interval of its entries, and an entry's own phase has fraction 0. -/
theorem linearStaysBetweenEntries : Obligations.LinearStaysBetweenEntries :=
  ⟨fun a b _ hf hf' => linear_mem_uIcc a b hf (by omega), linear_zero, by decide, by decide,
    fun i _ => ⟨index1024_ofNat_entry (i + 1), fraction_ofNat_entry (i + 1)⟩⟩

/-- Settles O33: three floors bound the distance from the parabola, and at fraction 0 none of them rounds. -/
theorem quadraticFollowsLeadingParabola : Obligations.QuadraticFollowsLeadingParabola :=
  ⟨abs_quadraticRaw_sub_parabola_lt, fun p0 _ p2 _ hp hp' => quadratic_zero hp hp' p0 p2⟩

/-- Settles O34: the range of every sample, and the smaller one of the 8-bit tables. -/
theorem samplesFitSampleOut : Obligations.SamplesFitSampleOut := by
  intro env s acc
  obtain ⟨low, high⟩ := sample_mem_Icc env s acc
  exact ⟨low, high, fun hw hr => sample_le_of_8bit env hw hr acc⟩

/-- Settles O32: the clamp answers a value of its range, and the four patterns are closed. -/
theorem quadraticIsClampedToDepth : Obligations.QuadraticIsClampedToDepth :=
  ⟨fun _ _ _ _ => ⟨clampInt_mem_Icc _ (by decide), clampInt_mem_Icc _ (by decide)⟩,
    by decide, by decide, by decide, by decide, by decide, by decide, by decide, by decide⟩

end Sys2Proof.Proofs
end

section
/-! What a sample is made of (41_sample_production.md R168): on a table path the entries it requests, in the
order of the requests, and the fraction; on the user path the call. -/

namespace Sys2Proof.Machine

open Config (Env Kind4)

/-- How many neighbouring entries a mode reads in a 1024-sample class (R158 to R160). -/
def entryCount : InterpMode → Nat
  | .off => 1
  | .linear => 2
  | .quadratic => 3

/-- Interpolation looks at the entries its mode reads and at no other: sequences that agree on those give
one value (R158 to R160). -/
theorem interpolate_congr (mode : InterpMode) (top : Int) {T U : Nat → Nat} {i j : Nat}
    (h : ∀ n < entryCount mode, T (i + n) = U (j + n)) (f : Nat) :
    interpolate mode top T i f = interpolate mode top U j f := by
  have first : T i = U j := h 0 (by cases mode <;> decide)
  cases mode with
  | off => simp only [interpolate, first]
  | linear => simp only [interpolate, first, h 1 (by decide)]
  | quadratic => simp only [interpolate, first, h 1 (by decide), h 2 (by decide)]

/-- In C8_256 the one entry read is at the top byte of the phase (R153). -/
theorem getElem?_readIndices_c8_256 (mode : InterpMode) (acc : Word) :
    (readIndices .c8_256 mode acc)[0]? = some (index256 acc) := by
  cases mode <;> rfl

/-- In a 1024-sample class the `n`-th entry read is `n` entries after the index of the phase (R156, R158 to
R160). -/
theorem getElem?_readIndices_1024 {cls : Resolution} (hcls : cls ≠ .c8_256) {mode : InterpMode} {n : Nat}
    (hn : n < entryCount mode) (acc : Word) :
    (readIndices cls mode acc)[n]? = some ((index1024 acc + n) % 1024) := by
  have first : index1024 acc % 1024 = index1024 acc := Nat.mod_eq_of_lt (index1024_lt acc)
  have read : readIndices cls mode acc = (List.range (entryCount mode)).map fun n => (index1024 acc + n) % 1024 := by
    cases cls
    case c8_256 => exact absurd rfl hcls
    all_goals cases mode <;> simp [readIndices, entryCount, List.range_succ, first]
  rw [read, List.getElem?_map, List.getElem?_range hn, Option.map_some]

/-- The value of a 1024-sample class, whichever (R155 to R160). -/
theorem classValue_1024 (env : Env) {cls : Resolution} (hcls : cls ≠ .c8_256) (mode : InterpMode) (kind : Kind4)
    (acc : Word) :
    classValue env cls mode kind acc =
      interpolate mode (maxEntry cls) (entry1024 env cls kind) (index1024 acc) (fraction acc) := by
  cases cls
  case c8_256 => exact absurd rfl hcls
  all_goals rfl

/-- Environments that agree on the entries a path reads give it one value (R168). -/
theorem classValue_congr {env env' : Env} {cls : Resolution} {mode : InterpMode} {kind : Kind4} {acc : Word}
    (h : ∀ j ∈ readIndices cls mode acc, tableRead env cls kind j = tableRead env' cls kind j) :
    classValue env cls mode kind acc = classValue env' cls mode kind acc := by
  by_cases hcls : cls = .c8_256
  · subst hcls
    have entry := h _ (List.mem_of_getElem? (getElem?_readIndices_c8_256 mode acc))
    rw [classValue_c8_256, classValue_c8_256, entry]
  · rw [classValue_1024 env hcls, classValue_1024 env' hcls]
    have entries : ∀ n < entryCount mode,
        entry1024 env cls kind (index1024 acc + n) = entry1024 env' cls kind (index1024 acc + n) :=
      fun n hn => h _ (List.mem_of_getElem? (getElem?_readIndices_1024 hcls hn acc))
    exact interpolate_congr mode _ entries _

/-- The user path is taken with the user kind and a function (R151). -/
theorem takesUserPath_iff (s : State) : takesUserPath s = true ↔ s.waveform = .user ∧ s.userFn ≠ 0 :=
  decide_eq_true_iff

/-- With a function, the user kind makes its call at the phase of the sample (R55, R151). -/
theorem userRequest_user {s : State} (hw : s.waveform = .user) (hf : s.userFn ≠ 0) (acc : Word) :
    userRequest s acc = some (s.userFn, acc) := if_pos ((takesUserPath_iff s).2 ⟨hw, hf⟩)

/-- Environments that answer a state's requests alike give it one sample (R168). -/
theorem sample_congr_env {env env' : Env} {s : State} {acc : Word}
    (hcall : ∀ h p, userRequest s acc = some (h, p) → env.userFunction h p = env'.userFunction h p)
    (hread : ∀ a ∈ tableReads s acc, tableRead env a.cls a.kind a.idx = tableRead env' a.cls a.kind a.idx) :
    sample env s acc = sample env' s acc := by
  by_cases hw : s.waveform = .user
  · by_cases hf : s.userFn = 0
    · rw [sample_user_none env hw hf, sample_user_none env' hw hf]
    · have call := hcall _ _ (userRequest_user hw hf acc)
      rw [sample_user env hw hf, sample_user env' hw hf, userCall, userCall, call]
  · obtain ⟨kind, hk⟩ := tableKind_isSome hw
    rw [tableReads_table hk, List.forall_mem_map] at hread
    rw [sample_table env hk, sample_table env' hk, classValue_congr hread]

end Sys2Proof.Machine

namespace Sys2Proof.Proofs

open Sys2Proof.Machine

/-- Settles O36: a path looks at its requests alone, and the user path at neither class nor mode. -/
theorem sampleDependsOnItsRequestsOnly : Obligations.SampleDependsOnItsRequestsOnly := by
  refine fun env env' s acc => ⟨sample_congr_env, fun hpath r m => ?_⟩
  obtain ⟨hw, hf⟩ := (takesUserPath_iff s).1 hpath
  rw [sample_user env hw hf, sample_user env (s := { s with resolution := r, interp := m }) hw hf]

end Sys2Proof.Proofs
end

section
/-! The 32-bit datapath (41_sample_production.md R164): on the operands that the ports bring, no operator
leaves 32 bits, so each reads as the unbounded arithmetic of R159 to R163. -/

namespace Sys2Proof.Machine

open Config (Env Kind4)

/-- A bit field narrower than a word, zero-extended to one, is the number it holds. -/
theorem toInt_setWidth_of_lt {w : Nat} (hw : w < 32) (x : BitVec w) : (x.setWidth 32).toInt = x.toNat := by
  have fits : x.toNat < 2 ^ 31 := x.isLt.trans_le (Nat.pow_le_pow_right (by decide) (by omega))
  have same : (x.setWidth 32).toNat = x.toNat := BitVec.toNat_setWidth_of_le (by omega)
  rw [BitVec.toInt_eq_toNat_of_lt (by omega), same]

/-- A data input is a 16-bit number. -/
theorem toInt_tableData_mem_Icc (d : PortData) (n : Nat) : ((tableData d n).setWidth 32).toInt ∈ Set.Icc 0 65535 := by
  have := (tableData d n).isLt
  rw [toInt_setWidth_sample, Set.mem_Icc]
  omega

/-- A product within 31 bits, shifted: the word holds it, and the shift does not enlarge it (R164). -/
theorem toInt_mul_sshiftRight {x y : Word} {A B : Int} (hx : |x.toInt| ≤ A) (hy : |y.toInt| ≤ B)
    (hAB : A * B < 2 ^ 31) (k : Nat) :
    ((x * y).sshiftRight k).toInt = shiftRight (x.toInt * y.toInt) k ∧
      |shiftRight (x.toInt * y.toInt) k| ≤ A * B := by
  have prod := abs_mul_le hx hy
  obtain ⟨low, high⟩ := abs_le.1 prod
  rw [toInt_sshiftRight_eq, toInt_mul_of_fits (by omega)]
  exact ⟨rfl, (Int.abs_ediv_le_abs _ _).trans prod⟩

/-- `Lin` on words (R159, R164): a difference of 16-bit entries times a 10-bit fraction fits. -/
theorem toInt_linear32 {a b f : Word} (ha : a.toInt ∈ Set.Icc 0 65535) (hb : b.toInt ∈ Set.Icc 0 65535)
    (hf : f.toInt ∈ Set.Icc 0 1023) : (linear32 a b f).toInt = linear a.toInt b.toInt f.toInt := by
  rw [Set.mem_Icc] at ha hb hf
  have diff : (b - a).toInt = b.toInt - a.toInt := toInt_sub_of_fits (by omega)
  obtain ⟨slope, bound⟩ := toInt_mul_sshiftRight (x := b - a) (y := f) (A := 65535) (B := 1023)
    (abs_le.2 (by omega)) (abs_le.2 (by omega)) (by decide) 10
  rw [diff] at slope bound
  obtain ⟨low, high⟩ := abs_le.1 bound
  rw [linear32, linear, toInt_add_of_fits (by omega), slope]

/-- The second difference of 16-bit entries on words (R160, R164). -/
theorem toInt_curvature32 {p0 p1 p2 : Word} (h0 : p0.toInt ∈ Set.Icc 0 65535) (h1 : p1.toInt ∈ Set.Icc 0 65535)
    (h2 : p2.toInt ∈ Set.Icc 0 65535) : (p0 - 2 * p1 + p2).toInt = p0.toInt - 2 * p1.toInt + p2.toInt := by
  rw [Set.mem_Icc] at h0 h1 h2
  have two : (2 : Word).toInt = 2 := rfl
  have twice : (2 * p1).toInt = 2 * p1.toInt := by
    rw [toInt_mul_of_fits (by rw [two]; omega), two]
  have diff : (p0 - 2 * p1).toInt = p0.toInt - 2 * p1.toInt := by
    rw [toInt_sub_of_fits (by omega), twice]
  rw [toInt_add_of_fits (by omega), diff]

/-- `y` of R160 on words (R164): both products fit, and so does the sum. -/
theorem toInt_quadraticRaw32 {p0 p1 p2 f : Word} (h0 : p0.toInt ∈ Set.Icc 0 65535)
    (h1 : p1.toInt ∈ Set.Icc 0 65535) (h2 : p2.toInt ∈ Set.Icc 0 65535) (hf : f.toInt ∈ Set.Icc 0 1023) :
    (quadraticRaw32 p0 p1 p2 f).toInt = quadraticRaw p0.toInt p1.toInt p2.toInt f.toInt := by
  have curve := toInt_curvature32 h0 h1 h2
  rw [Set.mem_Icc] at h0 h1 h2 hf
  have diff : (p2 - p0).toInt = p2.toInt - p0.toInt := toInt_sub_of_fits (by omega)
  have fraction : |f.toInt| ≤ 1023 := abs_le.2 (by omega)
  obtain ⟨slope, slopeBound⟩ := toInt_mul_sshiftRight (x := p2 - p0) (A := 65535)
    (abs_le.2 (by omega)) fraction (by decide) 11
  obtain ⟨square, -⟩ := toInt_mul_sshiftRight fraction fraction (by decide) 10
  have squareBound : |((f * f).sshiftRight 10).toInt| ≤ 1023 := by
    have prod := abs_le.1 (abs_mul_le fraction fraction)
    have quotient := shiftRight_bounds (f.toInt * f.toInt) 10
    rw [square, abs_le]
    omega
  obtain ⟨bend, bendBound⟩ := toInt_mul_sshiftRight (x := p0 - 2 * p1 + p2) (A := 131070)
    (abs_le.2 (by omega)) squareBound (by decide) 11
  rw [diff] at slope slopeBound
  rw [curve, square] at bend bendBound
  rw [abs_le] at slopeBound bendBound
  have line : (p1 + ((p2 - p0) * f).sshiftRight 11).toInt =
      p1.toInt + shiftRight ((p2.toInt - p0.toInt) * f.toInt) 11 := by
    rw [toInt_add_of_fits (by omega), slope]
  rw [quadraticRaw32, quadraticRaw, toInt_add_of_fits (by omega), line, bend]

/-- The clamp on words (R160, R164): its comparisons are signed. -/
theorem toInt_clamp32 (y max : Word) : (clamp32 y max).toInt = clampInt y.toInt 0 max.toInt := by
  have zero : (0 : Word).toInt = 0 := rfl
  rw [clamp32, clampInt, BitVec.slt_eq_decide, BitVec.slt_eq_decide, zero]
  simp only [decide_eq_true_eq, apply_ite BitVec.toInt, zero]

/-- A word that is a number of 16 bits keeps its value when cut to them. -/
theorem toNat_setWidth_16 {v : Word} (hv : v.toInt ∈ Set.Icc 0 65535) : ((v.setWidth 16).toNat : Int) = v.toInt := by
  rw [Set.mem_Icc, BitVec.toInt_eq_toNat_cond] at *
  rw [BitVec.toNat_setWidth]
  split_ifs at * <;> omega

/-- `Scale` on words (R163, R164): the product fits, and the 16 bits kept hold the quotient whole. -/
theorem toNat_scale32 (amp : BitVec 8) {v : Word} (hv : v.toInt ∈ Set.Icc 0 65535) :
    ((scale32 amp v).toNat : Int) = scale amp v.toInt := by
  have hamp := amp.isLt
  have wide : (amp.setWidth 32).toInt = amp.toNat := toInt_setWidth_of_lt (by decide) amp
  obtain ⟨low, high⟩ := hv
  obtain ⟨quotient, -⟩ := toInt_mul_sshiftRight (x := v) (y := amp.setWidth 32) (A := 65535) (B := 255)
    (abs_le.2 ⟨by omega, high⟩) (abs_le.2 ⟨by omega, by omega⟩) (by decide) 8
  rw [wide] at quotient
  have range : scale amp v.toInt ∈ Set.Icc 0 65535 :=
    Set.Icc_subset_Icc_right (by decide) (scale_mem_Icc amp ⟨low, high⟩)
  rw [scale32, toNat_setWidth_16 (quotient ▸ range), quotient, scale]

/-- The mode dispatch on words (R157, R164): the entries of the unbounded arithmetic are the data inputs. -/
theorem toInt_interpolate32 (mode : InterpMode) (max : Word) (d : PortData) {f : Word} {g : Nat}
    (hf : f.toInt = g) (hg : g < 1024) :
    (interpolate32 mode max d f).toInt = interpolate mode max.toInt (fun n => (tableData d n).toNat) 0 g := by
  have frac : f.toInt ∈ Set.Icc 0 1023 := by rw [Set.mem_Icc]; omega
  have data (n : Nat) := toInt_tableData_mem_Icc d n
  have read (x : Sample) := toInt_setWidth_sample x
  cases mode with
  | off => exact read d.tbl0
  | linear =>
    have value := toInt_linear32 (data 0) (data 1) frac
    rwa [read, read, hf] at value
  | quadratic =>
    have value := toInt_quadraticRaw32 (data 0) (data 1) (data 2) frac
    rw [read, read, read, hf] at value
    exact (toInt_clamp32 _ max).trans (congrArg (clampInt · 0 max.toInt) value)

/-- The datapath of a 1024-sample class, whichever (R155 to R157). -/
theorem datapathValue_1024 {s : State} (hcls : s.resolution ≠ .c8_256) (acc : Word) (d : PortData) :
    datapathValue s acc d =
      interpolate32 s.interp (BitVec.ofInt 32 (maxEntry s.resolution)) d ((acc.extractLsb' 12 10).setWidth 32) := by
  rw [datapathValue]
  cases h : s.resolution
  case c8_256 => exact absurd h hcls
  all_goals rfl

/-- `MAX` of a class, as a word (R155). -/
theorem toInt_ofInt_maxEntry (cls : Resolution) : (BitVec.ofInt 32 (maxEntry cls)).toInt = maxEntry cls := by
  cases cls <;> decide

/-- On inputs that answer the reads of a table path, the datapath's value is the path's (R164, R234). -/
theorem toInt_datapathValue {env : Env} {s : State} {kind : Kind4} {acc : Word} {d : PortData}
    (h : ∀ n j, (readIndices s.resolution s.interp acc)[n]? = some j →
      (tableData d n).toNat = tableRead env s.resolution kind j) :
    (datapathValue s acc d).toInt = classValue env s.resolution s.interp kind acc := by
  by_cases hcls : s.resolution = .c8_256
  · rw [hcls] at h ⊢
    have entry := h 0 _ (getElem?_readIndices_c8_256 s.interp acc)
    rw [datapathValue, hcls, classValue_c8_256, ← entry]
    exact toInt_setWidth_sample d.tbl0
  · have entries : ∀ n < entryCount s.interp,
        (tableData d (0 + n)).toNat = entry1024 env s.resolution kind (index1024 acc + n) := fun n hn => by
      rw [Nat.zero_add]
      exact h n _ (getElem?_readIndices_1024 hcls hn acc)
    rw [datapathValue_1024 hcls, classValue_1024 env hcls,
      toInt_interpolate32 _ _ d (toInt_setWidth_of_lt (by decide) _) (fraction_lt acc), toInt_ofInt_maxEntry]
    exact interpolate_congr _ _ entries _

/-! ### The datapath path by path, as `Sample(acc)` -/

theorem datapathSample_user {s : State} (hw : s.waveform = .user) (hf : s.userFn ≠ 0) (acc : Word) (d : PortData) :
    datapathSample s acc d = scale32 s.amplitude (d.usr.setWidth 32) :=
  if_pos ((takesUserPath_iff s).2 ⟨hw, hf⟩)

theorem datapathSample_user_none {s : State} (hw : s.waveform = .user) (hf : s.userFn = 0) (acc : Word)
    (d : PortData) : datapathSample s acc d = 0 := by
  simp [datapathSample, takesUserPath, hw, hf, tableKind]

theorem datapathSample_table {s : State} {kind : Kind4} (hk : tableKind s.waveform = some kind) (acc : Word)
    (d : PortData) : datapathSample s acc d = scale32 s.amplitude (datapathValue s acc d) := by
  have hw : s.waveform ≠ .user := by
    intro h
    simp [h, tableKind] at hk
  simp [datapathSample, takesUserPath, hw, hk]

end Sys2Proof.Machine

namespace Sys2Proof.Proofs

open Sys2Proof.Machine

/-- Settles O35: path by path, the words that the ports bring are the numbers that the sample reads. -/
theorem datapathRefinesUnboundedArithmetic : Obligations.DatapathRefinesUnboundedArithmetic := by
  rintro env s acc d ⟨hcall, hread⟩
  by_cases hw : s.waveform = .user
  · by_cases hf : s.userFn = 0
    · rw [datapathSample_user_none hw hf, sample_user_none env hw hf]
      rfl
    · have value : (d.usr.setWidth 32).toInt = userCall env s.userFn acc := by
        rw [toInt_setWidth_sample, hcall _ _ (userRequest_user hw hf acc), userCall]
      have range : (d.usr.setWidth 32).toInt ∈ Set.Icc 0 65535 := by
        have := userCall_lt env s.userFn acc
        rw [value, Set.mem_Icc]
        omega
      rw [datapathSample_user hw hf, sample_user env hw hf, toNat_scale32 _ range, value]
  · obtain ⟨kind, hk⟩ := tableKind_isSome hw
    rw [tableReads_table hk] at hread
    have value : (datapathValue s acc d).toInt = classValue env s.resolution s.interp kind acc :=
      toInt_datapathValue fun n j hj =>
        hread n ⟨s.resolution, kind, j⟩ (by rw [List.getElem?_map, hj, Option.map_some])
    have range : (datapathValue s acc d).toInt ∈ Set.Icc 0 65535 :=
      value ▸ Set.Icc_subset_Icc_right (maxEntry_le _) (classValue_mem_Icc env _ _ kind acc)
    rw [datapathSample_table hk, sample_table env hk, toNat_scale32 _ range, value]

end Sys2Proof.Proofs
end

section
/-! `NEXT_SAMPLE` (41_sample_production.md R150 to R160): the whole next state, path by path. -/

namespace Sys2Proof.Machine

open Config (Env Kind4)

/-- The next state of `NEXT_SAMPLE`, given the sample of the phase it advances to (R150). -/
theorem exec_nextSample {s : State} {v : Int} (h : sample Config.env s (s.phaseAcc + s.phaseInc) = v) :
    exec .nextSample s =
      .next
        { s with
          phaseAcc := s.phaseAcc + s.phaseInc
          sampleOut := BitVec.ofInt 16 v
          sampleValid := true } := by
  rw [exec_eq, effectOf, nextSampleIn_eq, h]

/-- The same where the sample is a scaled entry or a scaled call: the product and its quotient are
natural numbers (R151, R154, R158, R163). -/
theorem exec_nextSample_of_scale {s : State} {v : Nat}
    (h : sample Config.env s (s.phaseAcc + s.phaseInc) = scale s.amplitude v) :
    exec .nextSample s =
      .next
        { s with
          phaseAcc := s.phaseAcc + s.phaseInc
          sampleOut := BitVec.ofNat 16 (v * s.amplitude.toNat / 256)
          sampleValid := true } := by
  rw [exec_nextSample (h.trans (scale_natCast _ v)), BitVec.ofInt_natCast]

/-- `MAX` is not negative (R155). -/
theorem maxEntry_nonneg (cls : Resolution) : 0 ≤ maxEntry cls := by
  cases cls <;> decide

/-- An index of a 1024-entry table is already counted modulo its length (R155). -/
theorem entry1024_eq_tableRead (env : Env) {cls : Resolution} (kind : Kind4) {j : Nat} (hj : j < 1024) :
    entry1024 env cls kind j = tableRead env cls kind j := by
  rw [entry1024, Nat.mod_eq_of_lt hj]

/-- The 256-sample path (R153, R154). -/
theorem sample_c8_256 (env : Env) {s : State} {kind : Kind4} (hk : tableKind s.waveform = some kind)
    (hr : s.resolution = .c8_256) (acc : Word) :
    sample env s acc = scale s.amplitude (tableRead env .c8_256 kind (acc.toNat / 2 ^ 24)) := by
  rw [sample_table env hk, hr, classValue_c8_256, index256_eq]

section Class1024

variable {s : State} {kind : Kind4} {cls : Resolution} (hk : tableKind s.waveform = some kind)
  (hr : s.resolution = cls) (hcls : cls ≠ .c8_256)

include hk hr hcls

/-- The number of entries a 1024-sample path reads (R53, R158 to R160). -/
theorem length_tableReads_1024 (acc : Word) : (tableReads s acc).length = entryCount s.interp := by
  rw [tableReads_table hk, List.length_map, hr]
  cases cls
  case c8_256 => exact absurd rfl hcls
  all_goals cases s.interp <;> rfl

/-- The 1024-sample paths, index and fraction written out (R155 to R157). -/
theorem sample_1024 (env : Env) (acc : Word) :
    sample env s acc =
      scale s.amplitude
        (interpolate s.interp (maxEntry cls) (entry1024 env cls kind) (acc.toNat / 2 ^ 22)
          (acc.toNat / 2 ^ 12 % 1024)) := by
  rw [sample_table env hk, hr, classValue_1024 env hcls, index1024_eq, fraction_eq]

/-- Without interpolation: the entry at the index (R158). -/
theorem sample_off (hm : s.interp = .off) (env : Env) (acc : Word) :
    sample env s acc = scale s.amplitude (tableRead env cls kind (acc.toNat / 2 ^ 22)) := by
  have := acc.isLt
  rw [sample_1024 hk hr hcls, hm, interpolate, entry1024_eq_tableRead env kind (by omega)]

/-- Linear interpolation between the entry at the index and the next one (R159). -/
theorem sample_linear (hm : s.interp = .linear) (env : Env) (acc : Word) :
    sample env s acc =
      scale s.amplitude
        (linear (tableRead env cls kind (acc.toNat / 2 ^ 22)) (tableRead env cls kind ((acc.toNat / 2 ^ 22 + 1) % 1024))
          (acc.toNat / 2 ^ 12 % 1024 : Nat)) := by
  have := acc.isLt
  rw [sample_1024 hk hr hcls, hm, interpolate, entry1024_eq_tableRead env kind (by omega), entry1024]

/-- Quadratic interpolation over the entry at the index and the next two (R160). -/
theorem sample_quadratic (hm : s.interp = .quadratic) (env : Env) (acc : Word) :
    sample env s acc =
      scale s.amplitude
        (quadratic (maxEntry cls) (tableRead env cls kind (acc.toNat / 2 ^ 22))
          (tableRead env cls kind ((acc.toNat / 2 ^ 22 + 1) % 1024))
          (tableRead env cls kind ((acc.toNat / 2 ^ 22 + 2) % 1024)) (acc.toNat / 2 ^ 12 % 1024 : Nat)) := by
  have := acc.isLt
  rw [sample_1024 hk hr hcls, hm, interpolate, entry1024_eq_tableRead env kind (by omega), entry1024, entry1024]

/-- `NEXT_SAMPLE` with linear interpolation, its arithmetic written out (R159, R163). -/
theorem exec_nextSample_linear (hm : s.interp = .linear) {i : Nat} {a b : Int}
    (hi : i = (s.phaseAcc + s.phaseInc).toNat / 2 ^ 22) (ha : a = tableRead Config.env cls kind i)
    (hb : b = tableRead Config.env cls kind ((i + 1) % 1024)) :
    let acc := s.phaseAcc + s.phaseInc
    let f : Int := (acc.toNat / 2 ^ 12 % 1024 : Nat)
    (tableReads s acc).length = 2 ∧
    exec .nextSample s =
      .next
        { s with
          phaseAcc := acc
          sampleOut := BitVec.ofInt 16 ((a + (b - a) * f / 1024) * s.amplitude.toNat / 256)
          sampleValid := true } := by
  subst hi ha hb
  refine ⟨by rw [length_tableReads_1024 hk hr hcls, hm, entryCount], exec_nextSample ?_⟩
  rw [sample_linear hk hr hcls hm, scale_eq, linear_eq]

/-- `NEXT_SAMPLE` with quadratic interpolation, its arithmetic written out (R160, R163). -/
theorem exec_nextSample_quadratic (hm : s.interp = .quadratic) {i : Nat} {p0 p1 p2 top : Int}
    (htop : top = maxEntry cls) (hi : i = (s.phaseAcc + s.phaseInc).toNat / 2 ^ 22)
    (h0 : p0 = tableRead Config.env cls kind i) (h1 : p1 = tableRead Config.env cls kind ((i + 1) % 1024))
    (h2 : p2 = tableRead Config.env cls kind ((i + 2) % 1024)) :
    let acc := s.phaseAcc + s.phaseInc
    let t : Int := (acc.toNat / 2 ^ 12 % 1024 : Nat)
    let y := p1 + (p2 - p0) * t / 2048 + (p0 - 2 * p1 + p2) * (t * t / 1024) / 2048
    (tableReads s acc).length = 3 ∧
    exec .nextSample s =
      .next
        { s with
          phaseAcc := acc
          sampleOut := BitVec.ofInt 16 (max 0 (min y top) * s.amplitude.toNat / 256)
          sampleValid := true } := by
  subst htop hi h0 h1 h2
  refine ⟨by rw [length_tableReads_1024 hk hr hcls, hm, entryCount], exec_nextSample ?_⟩
  rw [sample_quadratic hk hr hcls hm, scale_eq, quadratic_eq (maxEntry_nonneg cls), quadraticRaw_eq]

end Class1024

end Sys2Proof.Machine

namespace Sys2Proof.Proofs

open Sys2Proof.Machine

/-- Settles O23: the phase is a word sum, and `sample_out` holds its sample whole. -/
theorem nextSampleAdvancesAndEmits : Obligations.NextSampleAdvancesAndEmits := fun s =>
  ⟨nextSampleIn Config.env s, exec_eq .nextSample s, BitVec.toNat_add s.phaseAcc s.phaseInc,
    toNat_sampleOut_nextSampleIn Config.env s, rfl, nextSampleIn_eq Config.env s⟩

/-- Settles O24: the user path is a scaled call, its only request. -/
theorem userPathScalesUserFunction : Obligations.UserPathScalesUserFunction := fun _ hw hf =>
  ⟨exec_nextSample_of_scale (sample_user Config.env hw hf _), tableReads_user hw _, userRequest_user hw hf _⟩

/-- Settles O25: with no table and no call the sample is 0. -/
theorem userKindWithoutFunctionYieldsZero : Obligations.UserKindWithoutFunctionYieldsZero := fun s hw hf =>
  ⟨exec_nextSample (sample_user_none Config.env hw hf _), tableReads_user hw _, by
    simp [userRequest, takesUserPath, hf]⟩

/-- Settles O26: the path never looks at the mode. -/
theorem class256LooksUpTopByte : Obligations.Class256LooksUpTopByte := fun _ _ hk hr =>
  exec_nextSample_of_scale (sample_c8_256 Config.env hk hr _)

/-- Settles O27: one lookup, in the table of the class. -/
theorem class1024OffLooksUpEntry : Obligations.Class1024OffLooksUpEntry := fun _ _ hk hm =>
  ⟨fun hr => by rw [length_tableReads_1024 hk rfl hr, hm, entryCount],
    fun hr => exec_nextSample_of_scale (sample_off hk hr (by decide) hm Config.env _),
    fun hr => exec_nextSample_of_scale (sample_off hk hr (by decide) hm Config.env _)⟩

/-- Settles O28: two neighbouring entries of the table of the class, interpolated by floor division. -/
theorem class1024LinearInterpolates : Obligations.Class1024LinearInterpolates := by
  rintro s k hk hm acc i f a b (⟨hr, ha, hb⟩ | ⟨hr, ha, hb⟩)
  · exact exec_nextSample_linear hk hr (by decide) hm rfl ha hb
  · exact exec_nextSample_linear hk hr (by decide) hm rfl ha hb

/-- Settles O29: three neighbouring entries of the table of the class, clamped to its depth. -/
theorem class1024QuadraticInterpolates : Obligations.Class1024QuadraticInterpolates := by
  rintro s k hk hm acc i t p0 p1 p2 top (⟨hr, htop, h0, h1, h2⟩ | ⟨hr, htop, h0, h1, h2⟩)
  · exact exec_nextSample_quadratic hk hr (by decide) hm htop rfl h0 h1 h2
  · exact exec_nextSample_quadratic hk hr (by decide) hm htop rfl h0 h1 h2

end Sys2Proof.Proofs
end

section
/-! Runs of samples (41_sample_production.md R166, R167, R169): what a run of `NEXT_SAMPLE` does to the
phase, and the sample that a frozen phase repeats. -/

namespace Sys2Proof.Machine

open Config (Env Kind4)

/-- At fraction 0 the first entry read is the value, or, led by one entry, the second (R161, R165). -/
theorem interpolate_zero_fraction (mode : InterpMode) {top : Int} {T : Nat → Nat} (hT : ∀ j, (T j : Int) ≤ top)
    (i : Nat) : interpolate mode top T i 0 = T (if mode = .quadratic then i + 1 else i) := by
  cases mode with
  | off => rfl
  | linear => exact linear_zero _ _
  | quadratic => exact quadratic_zero (Int.natCast_nonneg _) (hT _) _ _

/-- So at phase 0 a 1024-sample class reads entry 0, or, led by one entry, entry 1 (R167). -/
theorem classValue_1024_zero (env : Env) {cls : Resolution} (hcls : cls ≠ .c8_256) (mode : InterpMode)
    (kind : Kind4) :
    classValue env cls mode kind 0 = entry1024 env cls kind (if mode = .quadratic then 1 else 0) := by
  have index : index1024 0 = 0 := by decide
  have frac : fraction 0 = 0 := by decide
  rw [classValue_1024 env hcls, index, frac]
  exact interpolate_zero_fraction mode (entry1024_le_maxEntry env cls kind) 0

end Sys2Proof.Machine

namespace Sys2Proof.Safety

open Sys2Proof.Machine

/-- The table of R167 gives the sample of phase 0. -/
theorem sample_zero_eq_frozenValue (env : Config.Env) (s : State) : sample env s 0 = frozenValue env s := by
  by_cases hw : s.waveform = .user
  · have noTable : tableKind s.waveform = none := by rw [hw]; rfl
    by_cases hf : s.userFn = 0
    · rw [sample_user_none env hw hf, frozenValue, noTable]
      exact (if_pos hf).symm
    · rw [sample_user env hw hf, frozenValue, noTable]
      exact (if_neg hf).symm
  · obtain ⟨kind, hk⟩ := tableKind_isSome hw
    rw [sample_table env hk, frozenValue, hk]
    cases s.resolution with
    | c8_256 => rfl
    | c8_1024 =>
      rw [classValue_1024_zero env (by decide)]
      cases s.interp <;> rfl
    | c16_1024 =>
      rw [classValue_1024_zero env (by decide)]
      cases s.interp <;> rfl

/-! ### The phase along a run -/

/-- An accepted `NEXT_SAMPLE` (R150, R235). -/
theorem issue_nextSample {w : CommandWord} (hw : decode w = .nextSample) (s : State) :
    issue w s = nextSampleIn Config.env (s.setSampleValid false) := by
  rw [issue, hw, effectOf]

/-- With increment 0 it finds the phase it leaves, and emits the sample of that (R150). -/
theorem issue_nextSample_of_phaseInc_zero {w : CommandWord} (hw : decode w = .nextSample) {s : State}
    (hinc : s.phaseInc = 0) :
    issue w s =
      { s with sampleOut := BitVec.ofInt 16 (sample Config.env s s.phaseAcc), sampleValid := true } := by
  have phase : s.phaseAcc + s.phaseInc = s.phaseAcc := by rw [hinc]; exact BitVec.add_zero s.phaseAcc
  rw [issue_nextSample hw, nextSampleIn_eq, State.setSampleValid_phaseAcc, State.setSampleValid_phaseInc, phase]
  rfl

/-- A command with no access to the phase keeps it (R36). -/
theorem issue_phaseAcc {w : CommandWord} (hw : Reg.phaseAcc ∉ mayWrite (decode w)) (s : State) :
    (issue w s).phaseAcc = s.phaseAcc :=
  BitVec.eq_of_toNat_eq (readReg_effectOf hw (s.setSampleValid false))

/-- A command with no access to the increment keeps it (R36). -/
theorem issue_phaseInc {w : CommandWord} (hw : Reg.phaseInc ∉ mayWrite (decode w)) (s : State) :
    (issue w s).phaseInc = s.phaseInc :=
  BitVec.eq_of_toNat_eq (readReg_effectOf hw (s.setSampleValid false))

/-- `NEXT_SAMPLE` has no access to the increment (R36). -/
theorem phaseInc_notMem_mayWrite_nextSample : Reg.phaseInc ∉ mayWrite .nextSample := by decide

section Phase

variable {ws : List CommandWord}

/-- A run of commands with no access to the increment keeps it. -/
theorem runFrom_final_phaseInc (hws : ∀ w ∈ ws, Reg.phaseInc ∉ mayWrite (decode w)) (s : State) :
    (runFrom ws s).final.phaseInc = s.phaseInc := by
  induction ws generalizing s with
  | nil => rfl
  | cons w ws ih =>
    rw [List.forall_mem_cons] at hws
    rw [runFrom_cons_final, ih hws.2, issue_phaseInc hws.1]

/-- Each `NEXT_SAMPLE` of a run adds the increment, and commands with no access to the phase or the
increment add nothing (R166). -/
theorem runFrom_final_phaseAcc
    (hws : ∀ w ∈ ws, decode w = .nextSample ∨
      (Reg.phaseAcc ∉ mayWrite (decode w) ∧ Reg.phaseInc ∉ mayWrite (decode w))) (s : State) :
    (runFrom ws s).final.phaseAcc.toNat =
      (s.phaseAcc.toNat + ws.countP (fun w => decode w = .nextSample) * s.phaseInc.toNat) % 2 ^ 32 := by
  induction ws generalizing s with
  | nil => simp [runFrom_nil, Nat.mod_eq_of_lt s.phaseAcc.isLt]
  | cons w ws ih =>
    rw [List.forall_mem_cons] at hws
    obtain ⟨hw, hws⟩ := hws
    rw [runFrom_cons_final, ih hws]
    by_cases hn : decode w = .nextSample
    · rw [List.countP_cons_of_pos (by simpa using hn), issue_nextSample hn, nextSampleIn_phaseAcc,
        nextSampleIn_phaseInc, State.setSampleValid_phaseAcc, State.setSampleValid_phaseInc, BitVec.toNat_add,
        Nat.mod_add_mod]
      congr 1
      ring
    · obtain ⟨hacc, hinc⟩ := hw.resolve_left hn
      rw [List.countP_cons_of_neg (by simpa using hn), issue_phaseAcc hacc, issue_phaseInc hinc]

/-- A run of `NEXT_SAMPLE` alone returns to its phase exactly when its advances make whole turns (R169). -/
theorem runFrom_final_phaseAcc_eq_iff (hws : ∀ w ∈ ws, decode w = .nextSample) (s : State) :
    (runFrom ws s).final.phaseAcc = s.phaseAcc ↔ 2 ^ 32 ∣ ws.length * s.phaseInc.toNat := by
  have count : ws.countP (fun w => decode w = .nextSample) = ws.length :=
    List.countP_eq_length.2 fun w hw => decide_eq_true (hws w hw)
  have start : s.phaseAcc.toNat % 2 ^ 32 = s.phaseAcc.toNat := Nat.mod_eq_of_lt s.phaseAcc.isLt
  rw [← BitVec.toNat_inj, runFrom_final_phaseAcc (fun w hw => .inl (hws w hw)), count]
  omega

/-- With increment 0 every `NEXT_SAMPLE` of a run emits the sample of the phase it starts from (R167). -/
theorem runFrom_samples_of_phaseInc_zero (hws : ∀ w ∈ ws, decode w = .nextSample) {s : State}
    (hinc : s.phaseInc = 0) :
    (runFrom ws s).samples = List.replicate ws.length (BitVec.ofInt 16 (sample Config.env s s.phaseAcc)) := by
  induction ws generalizing s with
  | nil => rfl
  | cons w ws ih =>
    rw [List.forall_mem_cons] at hws
    obtain ⟨hw, hws⟩ := hws
    have issued := issue_nextSample_of_phaseInc_zero hw hinc
    have valid : (issue w s).sampleValid = true := by rw [issued]
    have inc : (issue w s).phaseInc = 0 := by rw [issued, hinc]
    have same : sample Config.env (issue w s) (issue w s).phaseAcc = sample Config.env s s.phaseAcc := by
      rw [issued]
      exact sample_congr _ _ rfl rfl rfl rfl rfl
    rw [runFrom_cons_samples, if_pos valid, ih hws inc, same, issued]
    rfl

end Phase

end Sys2Proof.Safety

namespace Sys2Proof.Proofs

open Sys2Proof.Machine Sys2Proof.Safety

/-- Settles O52: by induction on the run, each command adding the increment or nothing. -/
theorem phaseAccumulates : Obligations.PhaseAccumulates := fun _ s hws =>
  ⟨runFrom_final_phaseAcc hws s, runFrom_final_phaseInc (fun w hw =>
    (hws w hw).elim (fun hn => hn ▸ phaseInc_notMem_mayWrite_nextSample) And.right) s⟩

/-- Settles O53: `SILENCE` emits nothing and leaves phase and increment 0, and its samples are those of
phase 0. -/
theorem samplesFreezeAfterSilence : Obligations.SamplesFreezeAfterSilence := by
  intro w ws s hw hws
  have silent : issue w s = ((s.setSampleValid false).setPhaseAcc 0).setPhaseInc 0 := by rw [issue, hw, effectOf]
  have valid : (issue w s).sampleValid ≠ true := by simp [silent]
  have inc : (issue w s).phaseInc = 0 := by rw [silent]; rfl
  have acc : (issue w s).phaseAcc = 0 := by rw [silent]; rfl
  have config : frozenValue Config.env (issue w s) = frozenValue Config.env s := by rw [silent]; rfl
  rw [runFrom_cons_samples, if_neg valid, runFrom_samples_of_phaseInc_zero hws inc, acc, sample_zero_eq_frozenValue,
    config]

/-- Settles O54: `2^32` divides the advances exactly when `n` divides their number, the increment not being 0. -/
theorem phaseIsPeriodic : Obligations.PhaseIsPeriodic := by
  intro ws n s hn hws
  have hinc : 0 < s.phaseInc.toNat := Nat.pos_of_ne_zero fun h => by simp [h] at hn
  rw [runFrom_final_phaseAcc_eq_iff hws, ← hn, Nat.mul_comm ws.length, Nat.mul_dvd_mul_iff_left hinc]

end Sys2Proof.Proofs
end

section
/-! Faults (60_exceptions.md R200, R201, R204): a command that raises one does nothing else, and a command that
raises none does not look at `err`. -/

namespace Sys2Proof.Safety

open Sys2Proof.Machine

/-! ### What raises a fault, and which bit records it -/

/-- The causes of DIV0 (R200, R204). -/
theorem raises_eq_div0_iff (i : Instr) :
    raises i = some .div0 ↔ (∃ f, i = .setFreq f 0) ∨ (∃ n, i = .setNote n 0) := by
  cases i <;> simp [raises]

/-- The causes of ILLEGAL (R90, R200). -/
theorem raises_eq_illegal_iff (i : Instr) :
    raises i = some .illegal ↔ i = .reservedD ∨ i = .reservedE ∨ i = .reservedF := by
  cases i <;> simp [raises]

/-- The position in `err` of the bit of a fault (R29). -/
def faultIndex : FaultCode → Nat
  | .div0 => 0
  | .illegal => 1

/-- The bit of one fault is not the bit of the other (R29). -/
theorem getLsbD_faultBit_faultIndex (c d : FaultCode) : (faultBit c).getLsbD (faultIndex d) = true ↔ c = d := by
  cases c <;> cases d <;> decide

/-- A command sets the bit of exactly the fault it raises (R200). -/
theorem getLsbD_raisedBits_faultIndex (i : Instr) (code : FaultCode) :
    (raisedBits i).getLsbD (faultIndex code) = true ↔ raises i = some code := by
  rw [raisedBits]
  cases raises i with
  | none => simp
  | some c => exact (getLsbD_faultBit_faultIndex c code).trans Option.some_inj.symm

/-- After a command the bit of a fault is set exactly if it was, or the command raises the fault (R29, R200). -/
theorem getLsbD_effectOf_err_faultIndex (i : Instr) (s : State) (code : FaultCode) :
    (effectOf i s).err.getLsbD (faultIndex code) = true ↔
      s.err.getLsbD (faultIndex code) = true ∨ raises i = some code := by
  rw [effectOf_err, BitVec.getLsbD_or, Bool.or_eq_true, getLsbD_raisedBits_faultIndex]

/-! ### What a command does, by whether it raises a fault -/

/-- A faulting command records its fault and does nothing else (R200). -/
theorem effectOf_of_raises_eq_some {i : Instr} {code : FaultCode} (h : raises i = some code) (s : State) :
    effectOf i s = raiseFault code s := by
  cases code with
  | div0 => obtain ⟨f, rfl⟩ | ⟨n, rfl⟩ := (raises_eq_div0_iff i).1 h <;> exact loadIncrement_zero _ _ s
  | illegal => obtain rfl | rfl | rfl := (raises_eq_illegal_iff i).1 h <;> rfl

/-- A load that is not refused for a zero rate does not look at `err` (R101, R201). -/
theorem loadIncrement_setErr {rate : Word} (h : rate ≠ 0) (num den : Nat) (s : State) (e : BitVec 2) :
    loadIncrement rate num den (s.setErr e) = (loadIncrement rate num den s).setErr e := by
  rw [loadIncrement_pos h, loadIncrement_pos h]
  rfl

/-- A command that raises no fault does not look at `err` (R201). -/
theorem effectOf_setErr_of_raises_eq_none {i : Instr} (h : raises i = none) (s : State) (e : BitVec 2) :
    effectOf i (s.setErr e) = (effectOf i s).setErr e := by
  cases i
  case setFreq f r => exact loadIncrement_setErr (by simpa [raises] using h) _ _ s e
  case setNote n r => exact loadIncrement_setErr (by simpa [raises] using h) _ _ s e
  case setWave sel => rw [effectOf_setWave, effectOf_setWave]; rfl
  case setRes sel => rw [effectOf_setRes, effectOf_setRes]; rfl
  case setInterp sel => rw [effectOf_setInterp, effectOf_setInterp]; rfl
  case reservedD | reservedE | reservedF => cases h
  all_goals rfl

/-- Whatever `err` holds, a command does the same and adds the bits it raises (R29, R201). -/
theorem effectOf_setErr (i : Instr) (s : State) (e : BitVec 2) :
    effectOf i (s.setErr e) = (effectOf i s).setErr (e ||| raisedBits i) := by
  cases h : raises i with
  | none => simp [effectOf_setErr_of_raises_eq_none h, (raisedBits_eq_zero_iff i).2 h]
  | some code =>
    have bits : raisedBits i = faultBit code := by rw [raisedBits, h]
    rw [effectOf_of_raises_eq_some h, effectOf_of_raises_eq_some h, bits]
    rfl

end Sys2Proof.Safety

namespace Sys2Proof.Proofs

open Sys2Proof.Machine Sys2Proof.Safety

/-- Settles O49: each bit is joined by its causes alone, and a faulting command only raises its fault. -/
theorem faultsHaveTwoCauses : Obligations.FaultsHaveTwoCauses := by
  intro i s
  refine ⟨effectOf i s, exec_eq i s, ?_, ?_, fun h => ?_⟩
  · rw [← raises_eq_div0_iff]
    exact getLsbD_effectOf_err_faultIndex i s .div0
  · rw [← raises_eq_illegal_iff]
    exact getLsbD_effectOf_err_faultIndex i s .illegal
  · obtain ⟨code, hcode⟩ := Option.ne_none_iff_exists'.1 h
    rw [effectOf_of_raises_eq_some hcode]
    exact raiseFault_eq code s

/-- Settles O50: every command answers its effect, which commutes with a change of `err` up to its own bits. -/
theorem commandsIgnoreRecordedFaults : Obligations.CommandsIgnoreRecordedFaults := fun i s e =>
  ⟨effectOf i s, exec_eq i s, (exec_eq i (s.setErr e)).trans (congrArg Host.Outcome.next (effectOf_setErr i s e))⟩

end Sys2Proof.Proofs
end

section
/-! What a step does to the strobe and the sample register (70_reset_and_hazards.md R230, R235, R236), and the
edge it takes off the host's schedule (R237, log 1). -/

namespace Sys2Proof.Machine

open Sys2Proof.Safety (readReg_effectOf sampleOut_notMem_mayWrite)

/-! ### The coming edge -/

/-- A step takes the first edge of the host's schedule. -/
theorem step_of_port_cons {s : State} {e : EdgeInput} {rest : List EdgeInput} (h : s.port = e :: rest) :
    step s = .next (eventEffect (eventOf e) s) := by
  have hev : nextEvent s = eventOf e := by rw [nextEvent, h]
  rw [step_eq, hev]

/-- Past the schedule's end a step idles (R214, R231). -/
theorem step_of_port_nil {s : State} (h : s.port = []) : step s = .next (passEdge s) := by
  have hev : nextEvent s = .idle := by rw [nextEvent, h]
  rw [step_eq, hev, eventEffect]

theorem passEdge_of_tail {s : State} {rest : List EdgeInput} (h : s.port.tail = rest) :
    passEdge s = { s with port := rest, sampleValid := false } := by
  rw [passEdge_eq, h]

/-- The word to be issued next, put on the 68-bit port, is the word itself (R234). -/
theorem withFetchWord_toNat (s : State) (w : CommandWord) :
    s.withFetchWord 68 w.toNat = s.setPort (commandEdge w :: s.port) := by
  rw [State.withFetchWord, Nat.mod_eq_of_lt w.isLt, BitVec.ofNat_toNat, BitVec.setWidth_eq]

/-- An edge that accepts a command word runs the command it decodes to (R235). -/
theorem step_commandEdge {w : CommandWord} {rest : List EdgeInput} {s : State} (h : s.port = commandEdge w :: rest) :
    step s = exec (decode w) { s with port := rest, sampleValid := false } := by
  have htail : s.port.tail = rest := by rw [h, List.tail_cons]
  rw [step_of_port_cons h, eventOf_commandEdge, eventEffect, passEdge_of_tail htail, exec_eq]

/-- An edge with the reset input leaves the reset state, whatever the registers held (R230). -/
theorem step_resetEdge {v : Bool} {w : CommandWord} {rest : List EdgeInput} {s : State}
    (h : s.port = resetEdge v w :: rest) : step s = .next { State.reset with port := rest } := by
  have htail : s.port.tail = rest := by rw [h, List.tail_cons]
  rw [step_of_port_cons h, eventOf_resetEdge, eventEffect, resetRegisters_eq, passEdge_of_tail htail]

/-! ### What every event does -/

/-- Whatever its event, an edge is used up, and no other (R235, R237). -/
@[simp] theorem eventEffect_port (ev : Event) (s : State) : (eventEffect ev s).port = s.port.tail := by
  cases ev with
  | reset => rfl
  | idle => rfl
  | command i => exact effectOf_port i (passEdge s)

/-- The strobe is 1 after a `NEXT_SAMPLE` and after nothing else: every edge lowers it, and only that command
raises it again (R236). -/
theorem eventEffect_sampleValid_iff (ev : Event) (s : State) :
    (eventEffect ev s).sampleValid = true ↔ ev = .command .nextSample := by
  have hpass : (passEdge s).sampleValid = false := rfl
  cases ev with
  | reset => simp [eventEffect, resetRegisters_eq, State.reset]
  | idle => simp [eventEffect, hpass]
  | command i =>
    by_cases hi : i = .nextSample
    · simp [eventEffect, effectOf, hi]
    · simp [eventEffect, effectOf_sampleValid hi, hpass, hi]

/-- After a `NEXT_SAMPLE` the sample register holds the sample of the phase register (R150, R236). -/
theorem toNat_sampleOut_eventEffect_nextSample (s : State) :
    ((eventEffect (.command .nextSample) s).sampleOut.toNat : Int) =
      sample Config.env s (eventEffect (.command .nextSample) s).phaseAcc :=
  (toNat_sampleOut_nextSampleIn Config.env (passEdge s)).trans (sample_congr Config.env _ rfl rfl rfl rfl rfl)

/-- Every event but `NEXT_SAMPLE` and the reset input keeps the sample register (R31, R236). -/
theorem eventEffect_sampleOut {ev : Event} (hnext : ev ≠ .command .nextSample) (hreset : ev ≠ .reset) (s : State) :
    (eventEffect ev s).sampleOut = s.sampleOut := by
  cases ev with
  | reset => exact absurd rfl hreset
  | idle => rfl
  | command i =>
    have hi : i ≠ .nextSample := fun h => hnext (congrArg Event.command h)
    exact BitVec.eq_of_toNat_eq (readReg_effectOf (sampleOut_notMem_mayWrite hi) (passEdge s))

end Sys2Proof.Machine

namespace Sys2Proof.Proofs

open Sys2Proof.Machine Sys2Proof.Safety

/-- Settles O47: strobe and sample register, event by event. -/
theorem sampleValidMarksNewSamples : Obligations.SampleValidMarksNewSamples := by
  intro s t hst
  rw [eq_of_step_eq hst]
  refine ⟨eventEffect_sampleValid_iff _ s, fun hev => ?_, fun hnext hreset => eventEffect_sampleOut hnext hreset s⟩
  rw [hev]
  exact toNat_sampleOut_eventEffect_nextSample s

/-- Settles O55: by induction on the commands, none of which clears a flag. -/
theorem goodRunsRaiseNoFault : Obligations.GoodRunsRaiseNoFault := good_iff

/-- Settles O43: a command edge runs its command, and `withFetchWord` makes the coming edge one. -/
theorem stepRunsDecodedCommand : Obligations.StepRunsDecodedCommand := by
  refine ⟨fun w rest s h => step_commandEdge h, fun w s => ?_⟩
  rw [withFetchWord_toNat]
  exact step_commandEdge (State.setPort_port s _)

/-- Settles O44: without a command, and past the schedule's end, a step only passes the edge. -/
theorem idleEdgesChangeNothing : Obligations.IdleEdgesChangeNothing := by
  refine fun cmd rest s => ⟨fun h => ?_, fun h => ?_⟩
  · have htail : s.port.tail = rest := by rw [h, List.tail_cons]
    exact (step_of_port_cons h).trans (congrArg Host.Outcome.next (passEdge_of_tail htail))
  · have htail : s.port.tail = s.port := by rw [h, List.tail_nil]
    rw [step_of_port_nil h, passEdge_of_tail htail]

/-- Settles O45: the reset input, from any state and from the reset state itself. -/
theorem resetInputGivesResetState : Obligations.ResetInputGivesResetState :=
  fun _ _ _ _ _ _ => ⟨step_resetEdge, step_resetEdge rfl⟩

/-- Settles O46: a step answers the effect of its event, which uses up the edge. -/
theorem everyStepTakesOneEdge : Obligations.EveryStepTakesOneEdge := fun s =>
  ⟨eventEffect (nextEvent s) s, step_eq s, eventEffect_port _ s⟩

/-- Settles O58: the phase stays 0, and the table of R167 gives its sample. -/
theorem nextSampleAfterReset : Obligations.NextSampleAfterReset := by
  have phase : State.reset.phaseAcc + State.reset.phaseInc = State.reset.phaseAcc := by decide
  have full : State.reset.amplitude.toNat = 255 := by decide
  have entry : sample Config.env State.reset State.reset.phaseAcc =
      scale State.reset.amplitude (Config.table8_256 .sine 0).toNat :=
    sample_zero_eq_frozenValue Config.env State.reset
  rw [Obligations.NextSampleAfterReset, exec_nextSample_of_scale (phase.symm ▸ entry), phase, full]

end Sys2Proof.Proofs
end

section
/-! The table port (70_reset_and_hazards.md R234): what it carries in each class, and the entry that each
index asks for. -/

namespace Sys2Proof.Machine

open Config (Kind4)

/-- In C8_256 the port carries the top byte of the phase, and no other index (R153, R234). -/
theorem tablePortAt_c8_256 {s : State} {kind : Kind4} (hk : tableKind s.waveform = some kind)
    (hr : s.resolution = .c8_256) (acc : Word) :
    tablePortAt s acc =
      some ⟨resolutionBits .c8_256, kindBits kind, .low8 (BitVec.ofNat 8 (index256 acc)), none, none⟩ := by
  rw [tablePortAt, hk, hr]

/-- In a 1024-sample class it carries three neighbouring indices, whatever the mode (R156, R234). -/
theorem tablePortAt_1024 {s : State} {kind : Kind4} (hk : tableKind s.waveform = some kind)
    (hr : s.resolution ≠ .c8_256) (acc : Word) :
    tablePortAt s acc =
      some ⟨resolutionBits s.resolution, kindBits kind, .all10 (BitVec.ofNat 10 (index1024 acc)),
        some (BitVec.ofNat 10 ((index1024 acc + 1) % 1024)), some (BitVec.ofNat 10 ((index1024 acc + 2) % 1024))⟩ := by
  rw [tablePortAt, hk]
  cases hcls : s.resolution
  case c8_256 => exact absurd hcls hr
  all_goals rfl

/-- Eight bits hold the index of a 256-sample table (R153). -/
theorem toNat_ofNat_index256 (acc : Word) : (BitVec.ofNat 8 (index256 acc)).toNat = index256 acc :=
  (BitVec.toNat_ofNat _ 8).trans (Nat.mod_eq_of_lt (index256_lt acc))

/-- Ten bits hold the index of a 1024-sample table (R156). -/
theorem toNat_ofNat_index1024 (acc : Word) : (BitVec.ofNat 10 (index1024 acc)).toNat = index1024 acc :=
  (BitVec.toNat_ofNat _ 10).trans (Nat.mod_eq_of_lt (index1024_lt acc))

/-- And that of a neighbour, which wraps at the table's end (R155). -/
theorem toNat_ofNat_mod_1024 (j : Nat) : (BitVec.ofNat 10 (j % 1024)).toNat = j % 1024 :=
  (BitVec.toNat_ofNat _ 10).trans (Nat.mod_mod j 1024)

/-- The one entry that C8_256 reads (R53, R153). -/
theorem tableReads_c8_256_getElem? {s : State} {kind : Kind4} (hk : tableKind s.waveform = some kind)
    (hr : s.resolution = .c8_256) {acc : Word} {n : Nat} {a : TableAddr} (h : (tableReads s acc)[n]? = some a) :
    n = 0 ∧ a = ⟨.c8_256, kind, index256 acc⟩ := by
  have reads : tableReads s acc = [⟨.c8_256, kind, index256 acc⟩] := by rw [tableReads, hk, hr]
  rw [reads, List.getElem?_singleton] at h
  split at h
  · exact ⟨‹n = 0›, (Option.some.inj h).symm⟩
  · cases h

/-- The `n`-th entry that a 1024-sample class reads, of three at most (R53, R156 to R160). -/
theorem tableReads_1024_getElem? {s : State} {kind : Kind4} (hk : tableKind s.waveform = some kind)
    (hr : s.resolution ≠ .c8_256) {acc : Word} {n : Nat} {a : TableAddr} (h : (tableReads s acc)[n]? = some a) :
    n < 3 ∧ a = ⟨s.resolution, kind, (index1024 acc + n) % 1024⟩ := by
  obtain ⟨hn, -⟩ := List.getElem?_eq_some_iff.1 h
  rw [length_tableReads_1024 hk rfl hr] at hn
  have hcount : entryCount s.interp ≤ 3 := by cases s.interp <;> decide
  rw [tableReads_table hk, List.getElem?_map, getElem?_readIndices_1024 hr hn, Option.map_some] at h
  exact ⟨hn.trans_le hcount, (Option.some.inj h).symm⟩

end Sys2Proof.Machine

namespace Sys2Proof.Proofs

open Sys2Proof.Machine

/-- Settles O38: a read is the entry of its place on the port, class by class, and a `NEXT_SAMPLE` edge
requests the phase it advances to. -/
theorem tablePortCarriesReads : Obligations.TablePortCarriesReads := by
  refine ⟨fun s acc n a ha => ?_, fun s acc hw hr => ?_, fun s hev => ?_⟩
  · obtain ⟨-, hk, -⟩ := mem_tableReads (List.mem_of_getElem? ha)
    generalize a.kind = kind at hk
    by_cases hr : s.resolution = .c8_256
    · obtain ⟨rfl, rfl⟩ := tableReads_c8_256_getElem? hk hr ha
      exact ⟨_, tablePortAt_c8_256 hk hr acc, rfl, rfl, .inl ⟨rfl, rfl, toNat_ofNat_index256 acc⟩⟩
    · obtain ⟨hn, rfl⟩ := tableReads_1024_getElem? hk hr ha
      refine ⟨_, tablePortAt_1024 hk hr acc, rfl, rfl, ?_⟩
      match n, hn with
      | 0, _ =>
        have first : (index1024 acc + 0) % 1024 = index1024 acc := Nat.mod_eq_of_lt (index1024_lt acc)
        exact .inl ⟨rfl, hr, (toNat_ofNat_index1024 acc).trans first.symm⟩
      | 1, _ => exact .inr (.inl ⟨rfl, congrArg some (toNat_ofNat_mod_1024 _)⟩)
      | 2, _ => exact .inr (.inr ⟨rfl, congrArg some (toNat_ofNat_mod_1024 _)⟩)
  · obtain ⟨kind, hk⟩ := tableKind_isSome hw
    rw [← index1024_eq]
    exact ⟨_, _, tablePortAt_1024 hk hr acc, rfl, toNat_ofNat_index1024 acc,
      congrArg some (toNat_ofNat_mod_1024 _), congrArg some (toNat_ofNat_mod_1024 _)⟩
  · rw [tablePort, userPort, sampledPhase_nextSample hev]
    exact ⟨rfl, rfl⟩

end Sys2Proof.Proofs
end
